-- ==== Sys2Proof/Word.lean ====
section
/-! DEFINITION. The widths of 00_scope.md rule R6: the byte (`FIELD_BITS`, also the unit of a
container image), the instruction word (`WORD_BITS`) and the format version (`VER_BITS`). -/

namespace Sys2Proof

/-- `FIELD_BITS` = 8 (R6): the opcode byte, an operand field, one byte of an image or a slot. -/
abbrev Byte := BitVec 8

/-- `WORD_BITS` = 32 (R6): an instruction word as a value. -/
abbrev Word := BitVec 32

/-- `VER_BITS` = 16 (R6): the format version of a container. -/
abbrev Version := BitVec 16

end Sys2Proof
end

