-- ==== Sys2Proof/Syntax.lean ====
section
/-! DEFINITION. The abstract syntax: the 88 mnemonics of 30_encoding.md rule R81, the operand forms
(R74), the categories (R79), the type codes (R80), and the instructions themselves, one constructor
per row of spec/opcode_table.json (the unknown fallback of R87 is the last row). -/

namespace Sys2Proof

/-- The mnemonic universe of 30_encoding.md rule R81, in the order of its `mn` ids 0 to 87. -/
inductive Mnemonic where
  | halt | panic | jmp | jmpif | jmpifz
  | copy | move | loadi | loadc | loadg | storeg
  | call | tailcall | ret
  | add | sub | mul | div | mod | neg | eq | neq | gt | ge | lt | le
  | uadd | usub | umul | udiv | umod | uneg | ueq | uneq | ugt | uge | ult | ule
  | fadd | fsub | fmul | fdiv | fmod | fneg | feq | fneq | fgt | fge | flt | fle
  | dadd | dsub | dmul | ddiv | dmod | dneg | deq | dneq | dgt | dge | dlt | dle
  | and | or | xor | shl | shr | sar | uand | uor | uxor | ushl | ushr | usar
  | lnot | bnot | ulnot | ubnot
  | i2d | i2f | d2i | f2i | i2u | u2i | u2d | u2f | d2u | f2u
  deriving DecidableEq, Repr

/-- The operand forms of 30_encoding.md rule R74. -/
inductive Form where
  | raw | abc | a | ab | aimm16 | off24 | aoff8 | aidx
  deriving DecidableEq, Repr

/-- The categories of 30_encoding.md rule R79 (code 6 is not used). -/
inductive Category where
  | control | movement | callStack | arith | bitwise | conversion | unknown
  deriving DecidableEq, Repr

/-- The operand and result types of 30_encoding.md rule R80 (codes 5 to 7 are not used). -/
inductive Ty where
  | none | i64 | u64 | f32 | f64
  deriving DecidableEq, Repr

/-- The instructions: one constructor per row of spec/opcode_table.json.

`op` is the opcode byte the word carries. The opcode registry `OPREG` is a parameter (R82), so a
constructor does not fix the byte; WellFormed.lean says which byte an instruction may carry under a
registry and a version. The other arguments are the fields of the constructor's operand form (R74):
register numbers, immediates, offsets and pool indices. A field the form leaves unused (`xb`, `xc`)
is kept, because IWD reports it raw and the word round trip needs it (R73, R85). -/
inductive Instr where
  -- 40_control_flow.md
  | halt (op a b c : Byte)
  | panic (op a b c : Byte)
  | jmp (op : Byte) (off : BitVec 24)
  | jmpif (op rt xb off : Byte)
  | jmpifz (op rt xb off : Byte)
  -- 41_register_movement.md
  | copy (op rd rs xc : Byte)
  | move (op rd rs xc : Byte)
  | loadi (op rd : Byte) (imm : BitVec 16)
  | loadc (op r k xc : Byte)
  | loadg (op r k xc : Byte)
  | storeg (op r k xc : Byte)
  -- 42_call_stack.md
  | call (op a b c : Byte)
  | tailcall (op a b c : Byte)
  | ret (op a b c : Byte)
  -- 43_arithmetic.md
  | add (op rd rs1 rs2 : Byte)
  | sub (op rd rs1 rs2 : Byte)
  | mul (op rd rs1 rs2 : Byte)
  | div (op rd rs1 rs2 : Byte)
  | mod (op rd rs1 rs2 : Byte)
  | neg (op r xb xc : Byte)
  | eq (op rd rs1 rs2 : Byte)
  | neq (op rd rs1 rs2 : Byte)
  | gt (op rd rs1 rs2 : Byte)
  | ge (op rd rs1 rs2 : Byte)
  | lt (op rd rs1 rs2 : Byte)
  | le (op rd rs1 rs2 : Byte)
  | uadd (op rd rs1 rs2 : Byte)
  | usub (op rd rs1 rs2 : Byte)
  | umul (op rd rs1 rs2 : Byte)
  | udiv (op rd rs1 rs2 : Byte)
  | umod (op rd rs1 rs2 : Byte)
  | uneg (op r xb xc : Byte)
  | ueq (op rd rs1 rs2 : Byte)
  | uneq (op rd rs1 rs2 : Byte)
  | ugt (op rd rs1 rs2 : Byte)
  | uge (op rd rs1 rs2 : Byte)
  | ult (op rd rs1 rs2 : Byte)
  | ule (op rd rs1 rs2 : Byte)
  | fadd (op rd rs1 rs2 : Byte)
  | fsub (op rd rs1 rs2 : Byte)
  | fmul (op rd rs1 rs2 : Byte)
  | fdiv (op rd rs1 rs2 : Byte)
  | fmod (op rd rs1 rs2 : Byte)
  | fneg (op r xb xc : Byte)
  | feq (op rd rs1 rs2 : Byte)
  | fneq (op rd rs1 rs2 : Byte)
  | fgt (op rd rs1 rs2 : Byte)
  | fge (op rd rs1 rs2 : Byte)
  | flt (op rd rs1 rs2 : Byte)
  | fle (op rd rs1 rs2 : Byte)
  | dadd (op rd rs1 rs2 : Byte)
  | dsub (op rd rs1 rs2 : Byte)
  | dmul (op rd rs1 rs2 : Byte)
  | ddiv (op rd rs1 rs2 : Byte)
  | dmod (op rd rs1 rs2 : Byte)
  | dneg (op r xb xc : Byte)
  | deq (op rd rs1 rs2 : Byte)
  | dneq (op rd rs1 rs2 : Byte)
  | dgt (op rd rs1 rs2 : Byte)
  | dge (op rd rs1 rs2 : Byte)
  | dlt (op rd rs1 rs2 : Byte)
  | dle (op rd rs1 rs2 : Byte)
  -- 44_bitwise.md
  | and (op rd rs1 rs2 : Byte)
  | or (op rd rs1 rs2 : Byte)
  | xor (op rd rs1 rs2 : Byte)
  | shl (op rd rs1 rs2 : Byte)
  | shr (op rd rs1 rs2 : Byte)
  | sar (op rd rs1 rs2 : Byte)
  | uand (op rd rs1 rs2 : Byte)
  | uor (op rd rs1 rs2 : Byte)
  | uxor (op rd rs1 rs2 : Byte)
  | ushl (op rd rs1 rs2 : Byte)
  | ushr (op rd rs1 rs2 : Byte)
  | usar (op rd rs1 rs2 : Byte)
  | lnot (op r xb xc : Byte)
  | bnot (op r xb xc : Byte)
  | ulnot (op r xb xc : Byte)
  | ubnot (op r xb xc : Byte)
  -- 45_conversions.md
  | i2d (op a b c : Byte)
  | i2f (op a b c : Byte)
  | d2i (op a b c : Byte)
  | f2i (op a b c : Byte)
  | i2u (op a b c : Byte)
  | u2i (op a b c : Byte)
  | u2d (op a b c : Byte)
  | u2f (op a b c : Byte)
  | d2u (op a b c : Byte)
  | f2u (op a b c : Byte)
  -- 30_encoding.md rule R87
  | unknown (op a b c : Byte)
  deriving DecidableEq, Repr

end Sys2Proof
end

