-- ==== Sys2Proof/Config.lean ====
section
/-! DEFINITION. The implementation parameters of 00_scope.md rule R6 that the source leaves open, as
plain data a state carries (no step changes them: R28, R271), and the opaque constants that stand for
a parameter no source gives a value (`MAGIC`, `JMP_BASE`, `F32_FROM_HOST`). -/

namespace Sys2Proof

/-- The first 4 bytes of an image, in file order; they may be any bytes (20_memory.md rules R42, R43). -/
structure Magic where
  b0 : Byte
  b1 : Byte
  b2 : Byte
  b3 : Byte
  deriving DecidableEq, Repr

/-- The literal `MAGIC` of R6: 4 bytes of ASCII, each a code of 7 bits. -/
structure AsciiMagic where
  c0 : BitVec 7
  c1 : BitVec 7
  c2 : BitVec 7
  c3 : BitVec 7
  deriving DecidableEq, Repr, Inhabited

/-- `WORD_FILE_ORDER` (R6, R45): the byte order of an instruction word in an image. -/
inductive WordOrder where
  /-- Field c lies first; this spec's setting (90_conflicts.md C1). -/
  | little
  /-- The opcode byte lies first; the alternative setting R45 keeps. -/
  | big
  deriving DecidableEq, Repr

/-- `JMP_BASE` (R6, decision D20): the position a consumer counts a relative offset from. -/
inductive JmpBase where
  /-- From the jump word itself. -/
  | current
  /-- From the word after the jump. -/
  | next
  deriving DecidableEq, Repr, Inhabited

/-- `ADMITTED_VERSIONS` (R6, decision D27): the versions for which R82 constrains the registry. Under any
other version every opcode is unknown (93_implementation_defined.md I16). -/
inductive VersionSet where
  | all
  | only (versions : List Version)
  deriving DecidableEq, Repr

/-- One row of the opcode registry `OPREG` (R82): under version `ver` (every version where it is
`none`) the opcode byte `op` names the mnemonic `mn`. -/
structure OpRow where
  ver : Option Version
  op : Byte
  mn : Mnemonic
  deriving DecidableEq, Repr

/-- The static parameters of R6 that are open or switchable. `TAGREG` and the widths are fixed by the
spec, so they are definitions; `F32_FROM_HOST` is `Config.f32FromHost`. -/
structure Params where
  /-- `OPREG` as a list of rows; the first row that matches a version and a byte counts. -/
  opreg : List OpRow
  /-- `ADMITTED_VERSIONS`. -/
  admitted : VersionSet
  /-- `MAGIC`; `Params.magic` is its bytes. -/
  magicLiteral : AsciiMagic
  /-- `STRICT_MAGIC`. -/
  strictMagic : Bool
  /-- `WORD_FILE_ORDER`. -/
  wordOrder : WordOrder
  /-- `JMP_BASE`, read by no unit of the block (R102). -/
  jmpBase : JmpBase
  deriving DecidableEq, Repr

/-- The value of `MAGIC`: no source gives it (91_not_in_source.md N3), so nothing constrains it but
that it is ASCII (R6). -/
opaque Config.magic : AsciiMagic

/-- The value of `JMP_BASE`: no source gives it (91_not_in_source.md N7), so nothing constrains it. -/
opaque Config.jmpBase : JmpBase

/-- `F32_FROM_HOST` (R6, R228, decision D34): the binary32 pattern the pack side makes of a host
number. No source gives the rounding (91_not_in_source.md N21), so nothing constrains it. The host
number is taken as a 64-bit pattern. DESIGN CHOICE: the source does not say what a host number is. -/
opaque Config.f32FromHost : BitVec 64 → BitVec 32

end Sys2Proof
end

