-- ==== Sys2Proof/Machine/Registry.lean ====
section
/-! DEFINITION. The dispatch tables: the codes of forms, categories and types (R74, R79, R80), the
mnemonic table of R81, the opcode registry and its pack-side inverse (R82), the test registry (R91),
and the parameters the machine is reset with. -/

namespace Sys2Proof.Machine

/-- The `form` port code (R74). -/
def formCode : Form → BitVec 3
  | .raw => 0 | .abc => 1 | .a => 2 | .ab => 3 | .aimm16 => 4 | .off24 => 5 | .aoff8 => 6 | .aidx => 7

/-- The `cat` port code (R79). -/
def catCode : Category → BitVec 3
  | .control => 0 | .movement => 1 | .callStack => 2 | .arith => 3 | .bitwise => 4 | .conversion => 5
  | .unknown => 7

/-- The `ty` and `ty2` port code (R80). -/
def tyCode : Ty → BitVec 3
  | .none => 0 | .i64 => 1 | .u64 => 2 | .f32 => 3 | .f64 => 4

/-- One row of R81: the `mn` id, the category, the form, the operand and result types. -/
structure MnInfo where
  id : BitVec 7
  cat : Category
  form : Form
  ty : Ty
  ty2 : Ty
  deriving DecidableEq, Repr

/-- The mnemonic table of R81. -/
def mnInfo : Mnemonic → MnInfo
  | .halt => ⟨0, .control, .raw, .none, .none⟩
  | .panic => ⟨1, .control, .raw, .none, .none⟩
  | .jmp => ⟨2, .control, .off24, .none, .none⟩
  | .jmpif => ⟨3, .control, .aoff8, .none, .none⟩
  | .jmpifz => ⟨4, .control, .aoff8, .none, .none⟩
  | .copy => ⟨5, .movement, .ab, .none, .none⟩
  | .move => ⟨6, .movement, .ab, .none, .none⟩
  | .loadi => ⟨7, .movement, .aimm16, .none, .none⟩
  | .loadc => ⟨8, .movement, .aidx, .none, .none⟩
  | .loadg => ⟨9, .movement, .aidx, .none, .none⟩
  | .storeg => ⟨10, .movement, .aidx, .none, .none⟩
  | .call => ⟨11, .callStack, .raw, .none, .none⟩
  | .tailcall => ⟨12, .callStack, .raw, .none, .none⟩
  | .ret => ⟨13, .callStack, .raw, .none, .none⟩
  | .add => ⟨14, .arith, .abc, .i64, .i64⟩
  | .sub => ⟨15, .arith, .abc, .i64, .i64⟩
  | .mul => ⟨16, .arith, .abc, .i64, .i64⟩
  | .div => ⟨17, .arith, .abc, .i64, .i64⟩
  | .mod => ⟨18, .arith, .abc, .i64, .i64⟩
  | .neg => ⟨19, .arith, .a, .i64, .i64⟩
  | .eq => ⟨20, .arith, .abc, .i64, .none⟩
  | .neq => ⟨21, .arith, .abc, .i64, .none⟩
  | .gt => ⟨22, .arith, .abc, .i64, .none⟩
  | .ge => ⟨23, .arith, .abc, .i64, .none⟩
  | .lt => ⟨24, .arith, .abc, .i64, .none⟩
  | .le => ⟨25, .arith, .abc, .i64, .none⟩
  | .uadd => ⟨26, .arith, .abc, .u64, .u64⟩
  | .usub => ⟨27, .arith, .abc, .u64, .u64⟩
  | .umul => ⟨28, .arith, .abc, .u64, .u64⟩
  | .udiv => ⟨29, .arith, .abc, .u64, .u64⟩
  | .umod => ⟨30, .arith, .abc, .u64, .u64⟩
  | .uneg => ⟨31, .arith, .a, .u64, .u64⟩
  | .ueq => ⟨32, .arith, .abc, .u64, .none⟩
  | .uneq => ⟨33, .arith, .abc, .u64, .none⟩
  | .ugt => ⟨34, .arith, .abc, .u64, .none⟩
  | .uge => ⟨35, .arith, .abc, .u64, .none⟩
  | .ult => ⟨36, .arith, .abc, .u64, .none⟩
  | .ule => ⟨37, .arith, .abc, .u64, .none⟩
  | .fadd => ⟨38, .arith, .abc, .f32, .f32⟩
  | .fsub => ⟨39, .arith, .abc, .f32, .f32⟩
  | .fmul => ⟨40, .arith, .abc, .f32, .f32⟩
  | .fdiv => ⟨41, .arith, .abc, .f32, .f32⟩
  | .fmod => ⟨42, .arith, .abc, .f32, .f32⟩
  | .fneg => ⟨43, .arith, .a, .f32, .f32⟩
  | .feq => ⟨44, .arith, .abc, .f32, .none⟩
  | .fneq => ⟨45, .arith, .abc, .f32, .none⟩
  | .fgt => ⟨46, .arith, .abc, .f32, .none⟩
  | .fge => ⟨47, .arith, .abc, .f32, .none⟩
  | .flt => ⟨48, .arith, .abc, .f32, .none⟩
  | .fle => ⟨49, .arith, .abc, .f32, .none⟩
  | .dadd => ⟨50, .arith, .abc, .f64, .f64⟩
  | .dsub => ⟨51, .arith, .abc, .f64, .f64⟩
  | .dmul => ⟨52, .arith, .abc, .f64, .f64⟩
  | .ddiv => ⟨53, .arith, .abc, .f64, .f64⟩
  | .dmod => ⟨54, .arith, .abc, .f64, .f64⟩
  | .dneg => ⟨55, .arith, .a, .f64, .f64⟩
  | .deq => ⟨56, .arith, .abc, .f64, .none⟩
  | .dneq => ⟨57, .arith, .abc, .f64, .none⟩
  | .dgt => ⟨58, .arith, .abc, .f64, .none⟩
  | .dge => ⟨59, .arith, .abc, .f64, .none⟩
  | .dlt => ⟨60, .arith, .abc, .f64, .none⟩
  | .dle => ⟨61, .arith, .abc, .f64, .none⟩
  | .and => ⟨62, .bitwise, .abc, .i64, .i64⟩
  | .or => ⟨63, .bitwise, .abc, .i64, .i64⟩
  | .xor => ⟨64, .bitwise, .abc, .i64, .i64⟩
  | .shl => ⟨65, .bitwise, .abc, .i64, .i64⟩
  | .shr => ⟨66, .bitwise, .abc, .i64, .i64⟩
  | .sar => ⟨67, .bitwise, .abc, .i64, .i64⟩
  | .uand => ⟨68, .bitwise, .abc, .u64, .u64⟩
  | .uor => ⟨69, .bitwise, .abc, .u64, .u64⟩
  | .uxor => ⟨70, .bitwise, .abc, .u64, .u64⟩
  | .ushl => ⟨71, .bitwise, .abc, .u64, .u64⟩
  | .ushr => ⟨72, .bitwise, .abc, .u64, .u64⟩
  | .usar => ⟨73, .bitwise, .abc, .u64, .u64⟩
  | .lnot => ⟨74, .bitwise, .a, .i64, .i64⟩
  | .bnot => ⟨75, .bitwise, .a, .i64, .i64⟩
  | .ulnot => ⟨76, .bitwise, .a, .u64, .u64⟩
  | .ubnot => ⟨77, .bitwise, .a, .u64, .u64⟩
  | .i2d => ⟨78, .conversion, .raw, .i64, .f64⟩
  | .i2f => ⟨79, .conversion, .raw, .i64, .f32⟩
  | .d2i => ⟨80, .conversion, .raw, .f64, .i64⟩
  | .f2i => ⟨81, .conversion, .raw, .f32, .i64⟩
  | .i2u => ⟨82, .conversion, .raw, .i64, .u64⟩
  | .u2i => ⟨83, .conversion, .raw, .u64, .i64⟩
  | .u2d => ⟨84, .conversion, .raw, .u64, .f64⟩
  | .u2f => ⟨85, .conversion, .raw, .u64, .f32⟩
  | .d2u => ⟨86, .conversion, .raw, .f64, .u64⟩
  | .f2u => ⟨87, .conversion, .raw, .f32, .u64⟩

/-- The spelling of a mnemonic (R81), as its characters. -/
def mnName : Mnemonic → List Char
  | .halt => ['H', 'A', 'L', 'T']
  | .panic => ['P', 'A', 'N', 'I', 'C']
  | .jmp => ['J', 'M', 'P']
  | .jmpif => ['J', 'M', 'P', 'I', 'F']
  | .jmpifz => ['J', 'M', 'P', 'I', 'F', 'Z']
  | .copy => ['C', 'O', 'P', 'Y']
  | .move => ['M', 'O', 'V', 'E']
  | .loadi => ['L', 'O', 'A', 'D', 'I']
  | .loadc => ['L', 'O', 'A', 'D', 'C']
  | .loadg => ['L', 'O', 'A', 'D', 'G']
  | .storeg => ['S', 'T', 'O', 'R', 'E', 'G']
  | .call => ['C', 'A', 'L', 'L']
  | .tailcall => ['T', 'A', 'I', 'L', 'C', 'A', 'L', 'L']
  | .ret => ['R', 'E', 'T']
  | .add => ['A', 'D', 'D']
  | .sub => ['S', 'U', 'B']
  | .mul => ['M', 'U', 'L']
  | .div => ['D', 'I', 'V']
  | .mod => ['M', 'O', 'D']
  | .neg => ['N', 'E', 'G']
  | .eq => ['E', 'Q']
  | .neq => ['N', 'E', 'Q']
  | .gt => ['G', 'T']
  | .ge => ['G', 'E']
  | .lt => ['L', 'T']
  | .le => ['L', 'E']
  | .uadd => ['U', 'A', 'D', 'D']
  | .usub => ['U', 'S', 'U', 'B']
  | .umul => ['U', 'M', 'U', 'L']
  | .udiv => ['U', 'D', 'I', 'V']
  | .umod => ['U', 'M', 'O', 'D']
  | .uneg => ['U', 'N', 'E', 'G']
  | .ueq => ['U', 'E', 'Q']
  | .uneq => ['U', 'N', 'E', 'Q']
  | .ugt => ['U', 'G', 'T']
  | .uge => ['U', 'G', 'E']
  | .ult => ['U', 'L', 'T']
  | .ule => ['U', 'L', 'E']
  | .fadd => ['F', 'A', 'D', 'D']
  | .fsub => ['F', 'S', 'U', 'B']
  | .fmul => ['F', 'M', 'U', 'L']
  | .fdiv => ['F', 'D', 'I', 'V']
  | .fmod => ['F', 'M', 'O', 'D']
  | .fneg => ['F', 'N', 'E', 'G']
  | .feq => ['F', 'E', 'Q']
  | .fneq => ['F', 'N', 'E', 'Q']
  | .fgt => ['F', 'G', 'T']
  | .fge => ['F', 'G', 'E']
  | .flt => ['F', 'L', 'T']
  | .fle => ['F', 'L', 'E']
  | .dadd => ['D', 'A', 'D', 'D']
  | .dsub => ['D', 'S', 'U', 'B']
  | .dmul => ['D', 'M', 'U', 'L']
  | .ddiv => ['D', 'D', 'I', 'V']
  | .dmod => ['D', 'M', 'O', 'D']
  | .dneg => ['D', 'N', 'E', 'G']
  | .deq => ['D', 'E', 'Q']
  | .dneq => ['D', 'N', 'E', 'Q']
  | .dgt => ['D', 'G', 'T']
  | .dge => ['D', 'G', 'E']
  | .dlt => ['D', 'L', 'T']
  | .dle => ['D', 'L', 'E']
  | .and => ['A', 'N', 'D']
  | .or => ['O', 'R']
  | .xor => ['X', 'O', 'R']
  | .shl => ['S', 'H', 'L']
  | .shr => ['S', 'H', 'R']
  | .sar => ['S', 'A', 'R']
  | .uand => ['U', 'A', 'N', 'D']
  | .uor => ['U', 'O', 'R']
  | .uxor => ['U', 'X', 'O', 'R']
  | .ushl => ['U', 'S', 'H', 'L']
  | .ushr => ['U', 'S', 'H', 'R']
  | .usar => ['U', 'S', 'A', 'R']
  | .lnot => ['L', 'N', 'O', 'T']
  | .bnot => ['B', 'N', 'O', 'T']
  | .ulnot => ['U', 'L', 'N', 'O', 'T']
  | .ubnot => ['U', 'B', 'N', 'O', 'T']
  | .i2d => ['I', '2', 'D']
  | .i2f => ['I', '2', 'F']
  | .d2i => ['D', '2', 'I']
  | .f2i => ['F', '2', 'I']
  | .i2u => ['I', '2', 'U']
  | .u2i => ['U', '2', 'I']
  | .u2d => ['U', '2', 'D']
  | .u2f => ['U', '2', 'F']
  | .d2u => ['D', '2', 'U']
  | .f2u => ['F', '2', 'U']

/-- The mnemonics of 40_control_flow.md, in the order of their ids. -/
def controlFlowMnemonics : List Mnemonic :=
  [.halt, .panic, .jmp, .jmpif, .jmpifz]

/-- The mnemonics of 41_register_movement.md, in the order of their ids. -/
def movementMnemonics : List Mnemonic :=
  [.copy, .move, .loadi, .loadc, .loadg, .storeg]

/-- The mnemonics of 42_call_stack.md, in the order of their ids. -/
def callStackMnemonics : List Mnemonic :=
  [.call, .tailcall, .ret]

/-- The mnemonics of 43_arithmetic.md, in the order of their ids. -/
def arithmeticMnemonics : List Mnemonic :=
  [.add, .sub, .mul, .div, .mod, .neg, .eq, .neq, .gt, .ge, .lt, .le,
   .uadd, .usub, .umul, .udiv, .umod, .uneg, .ueq, .uneq, .ugt, .uge, .ult, .ule,
   .fadd, .fsub, .fmul, .fdiv, .fmod, .fneg, .feq, .fneq, .fgt, .fge, .flt, .fle,
   .dadd, .dsub, .dmul, .ddiv, .dmod, .dneg, .deq, .dneq, .dgt, .dge, .dlt, .dle]

/-- The mnemonics of 44_bitwise.md, in the order of their ids. -/
def bitwiseMnemonics : List Mnemonic :=
  [.and, .or, .xor, .shl, .shr, .sar, .uand, .uor, .uxor, .ushl, .ushr, .usar,
   .lnot, .bnot, .ulnot, .ubnot]

/-- The mnemonics of 45_conversions.md, in the order of their ids. -/
def conversionMnemonics : List Mnemonic :=
  [.i2d, .i2f, .d2i, .f2i, .i2u, .u2i, .u2d, .u2f, .d2u, .f2u]

/-- The 88 mnemonics in the order of their ids (R81). -/
def allMnemonics : List Mnemonic :=
  controlFlowMnemonics ++ movementMnemonics ++ callStackMnemonics ++ arithmeticMnemonics ++
    bitwiseMnemonics ++ conversionMnemonics

/-- The mnemonic with a given id, if the id is one of R81's. -/
def mnOfId (id : BitVec 7) : Option Mnemonic :=
  allMnemonics.find? fun m => (mnInfo m).id == id

/-- Whether a registry row speaks about a version and an opcode byte. -/
def rowMatches (ver : Version) (op : Byte) (r : OpRow) : Bool :=
  r.op == op && (r.ver == none || r.ver == some ver)

/-- `ver ∈ ADMITTED_VERSIONS` (R6). -/
def admits (p : Params) (ver : Version) : Bool :=
  match p.admitted with
  | .all => true
  | .only vs => vs.contains ver

/-- `OPREG(ver, op)` (R82): the mnemonic of the first row that matches, or none; none for every byte of
a version that is not admitted (93_implementation_defined.md I16, log 11). -/
def opReg (p : Params) (ver : Version) (op : Byte) : Option Mnemonic :=
  if admits p ver then (p.opreg.find? (rowMatches ver op)).map (·.mn) else none

/-- `OPNUM(ver, mn)` (R82): an opcode byte that the registry maps to `mn` under `ver`, where one exists. -/
def opNum (p : Params) (ver : Version) (m : Mnemonic) : Option Byte :=
  (p.opreg.find? fun r => r.mn == m && opReg p ver r.op == some m).map (·.op)

/-- The test registry `REG_T` (R91): for every version, the byte of a mnemonic is its id. -/
def regT : List OpRow :=
  allMnemonics.map fun m => ⟨none, (mnInfo m).id.setWidth 8, m⟩

/-- The parameters the machine is reset with. DESIGN CHOICE (logs 2 and 3): the registry is `REG_T`
and every version is admitted, because R6 leaves both open; `MAGIC` and `JMP_BASE` are opaque (log 4).
`STRICT_MAGIC` and `WORD_FILE_ORDER` are the spec's settings (R6). -/
def resetParams : Params :=
  ⟨regT, .all, Config.magic, true, .little, Config.jmpBase⟩

end Sys2Proof.Machine
end

