-- ==== Sys2Proof/Machine/Bits.lean ====
section
/-! DEFINITION. Bit fields, conversions and byte strings (00_scope.md rules R7 to R9): the four fields
of a word (R70, R71), the signed and unsigned readings of R8, little-endian numbers (R9) and the byte
order of a word in an image (R45). -/

namespace Sys2Proof

/-- The bytes of the ASCII literal: each code with top bit 0 (R6, R43). -/
def AsciiMagic.bytes (m : AsciiMagic) : Magic :=
  ⟨m.c0.setWidth 8, m.c1.setWidth 8, m.c2.setWidth 8, m.c3.setWidth 8⟩

/-- The 4 bytes of `MAGIC`, which the reader compares and the writer writes (R43, R52). -/
def Params.magic (p : Params) : Magic := p.magicLiteral.bytes

end Sys2Proof

namespace Sys2Proof.Machine

/-- The byte of `v` whose lowest bit is bit `lo`: `v[lo+7:lo]` (R7). -/
def bits {n : Nat} (v : BitVec n) (lo : Nat) : Byte := v.extractLsb' lo 8

/-- `op <- iw[31:24]` (R71). -/
def opField (w : Word) : Byte := bits w 24

/-- `fa <- iw[23:16]` (R71). -/
def faField (w : Word) : Byte := bits w 16

/-- `fb <- iw[15:8]` (R71). -/
def fbField (w : Word) : Byte := bits w 8

/-- `fc <- iw[7:0]` (R71). -/
def fcField (w : Word) : Byte := bits w 0

/-- The word `{op, a, b, c}` (R70, R72). -/
def packBytes (op a b c : Byte) : Word := op ++ a ++ b ++ c

/-- `to_signed_N(u)` (R8): subtract `2^N` when the top bit is set. -/
def toSigned {n : Nat} (u : BitVec n) : Int :=
  if u.msb then (u.toNat : Int) - 2 ^ n else u.toNat

/-- `to_unsigned_N(v)` (R8): `v mod 2^N`. -/
def toUnsigned (n : Nat) (v : Int) : BitVec n := BitVec.ofInt n v

/-- `low8(v)` (R8). -/
def low8 (v : Int) : Byte := toUnsigned 8 v

/-- `sext_32(u)` (R8): `to_signed_N(u) mod 2^32`. -/
def sext32 {n : Nat} (u : BitVec n) : BitVec 32 := toUnsigned 32 (toSigned u)

/-- `zext_32(u)` (R8). -/
def zext32 {n : Nat} (u : BitVec n) : BitVec 32 := u.setWidth 32

/-- The little-endian number of a byte string, `LE_n` (R9). -/
def leNat : List Byte → Nat
  | [] => 0
  | b :: bs => b.toNat + 256 * leNat bs

/-- The `n` bytes of a number, least significant first (`LE2`, `LE4` of R52). -/
def leBytes : Nat → Nat → List Byte
  | 0, _ => []
  | n + 1, v => BitVec.ofNat 8 v :: leBytes n (v / 256)

/-- `WordAt` (R45) on the four bytes of a word in file order. -/
def wordOfBytes (o : WordOrder) (b0 b1 b2 b3 : Byte) : Word :=
  match o with
  | .little => packBytes b3 b2 b1 b0
  | .big => packBytes b0 b1 b2 b3

/-- `WordBytes` (R52): the four bytes of a word in file order. -/
def wordBytes (o : WordOrder) (w : Word) : List Byte :=
  match o with
  | .little => [fcField w, fbField w, faField w, opField w]
  | .big => [opField w, faField w, fbField w, fcField w]

end Sys2Proof.Machine
end

