-- ==== Sys2Proof/Machine/Encoding.lean ====
section
/-! DEFINITION. The encoding table of spec/opcode_table.json in both directions: the four bytes of an
instruction (R70, R74 and the Encoding lines of R100 to R209), and the instruction a mnemonic and four
bytes stand for. -/

namespace Sys2Proof.Machine

/-- The word's four bytes and the mnemonic an instruction stands for (none for the fallback, R87). -/
structure WordFields where
  mn : Option Mnemonic
  op : Byte
  a : Byte
  b : Byte
  c : Byte
  deriving DecidableEq, Repr

/-- The bytes of an instruction, from the Encoding line of its rule. -/
def instrFields : Instr → WordFields
  | .halt op a b c => ⟨some .halt, op, a, b, c⟩
  | .panic op a b c => ⟨some .panic, op, a, b, c⟩
  | .jmp op off => ⟨some .jmp, op, bits off 16, bits off 8, bits off 0⟩
  | .jmpif op rt xb off => ⟨some .jmpif, op, rt, xb, off⟩
  | .jmpifz op rt xb off => ⟨some .jmpifz, op, rt, xb, off⟩
  | .copy op rd rs xc => ⟨some .copy, op, rd, rs, xc⟩
  | .move op rd rs xc => ⟨some .move, op, rd, rs, xc⟩
  | .loadi op rd imm => ⟨some .loadi, op, rd, bits imm 8, bits imm 0⟩
  | .loadc op r k xc => ⟨some .loadc, op, r, k, xc⟩
  | .loadg op r k xc => ⟨some .loadg, op, r, k, xc⟩
  | .storeg op r k xc => ⟨some .storeg, op, r, k, xc⟩
  | .call op a b c => ⟨some .call, op, a, b, c⟩
  | .tailcall op a b c => ⟨some .tailcall, op, a, b, c⟩
  | .ret op a b c => ⟨some .ret, op, a, b, c⟩
  | .add op rd rs1 rs2 => ⟨some .add, op, rd, rs1, rs2⟩
  | .sub op rd rs1 rs2 => ⟨some .sub, op, rd, rs1, rs2⟩
  | .mul op rd rs1 rs2 => ⟨some .mul, op, rd, rs1, rs2⟩
  | .div op rd rs1 rs2 => ⟨some .div, op, rd, rs1, rs2⟩
  | .mod op rd rs1 rs2 => ⟨some .mod, op, rd, rs1, rs2⟩
  | .neg op r xb xc => ⟨some .neg, op, r, xb, xc⟩
  | .eq op rd rs1 rs2 => ⟨some .eq, op, rd, rs1, rs2⟩
  | .neq op rd rs1 rs2 => ⟨some .neq, op, rd, rs1, rs2⟩
  | .gt op rd rs1 rs2 => ⟨some .gt, op, rd, rs1, rs2⟩
  | .ge op rd rs1 rs2 => ⟨some .ge, op, rd, rs1, rs2⟩
  | .lt op rd rs1 rs2 => ⟨some .lt, op, rd, rs1, rs2⟩
  | .le op rd rs1 rs2 => ⟨some .le, op, rd, rs1, rs2⟩
  | .uadd op rd rs1 rs2 => ⟨some .uadd, op, rd, rs1, rs2⟩
  | .usub op rd rs1 rs2 => ⟨some .usub, op, rd, rs1, rs2⟩
  | .umul op rd rs1 rs2 => ⟨some .umul, op, rd, rs1, rs2⟩
  | .udiv op rd rs1 rs2 => ⟨some .udiv, op, rd, rs1, rs2⟩
  | .umod op rd rs1 rs2 => ⟨some .umod, op, rd, rs1, rs2⟩
  | .uneg op r xb xc => ⟨some .uneg, op, r, xb, xc⟩
  | .ueq op rd rs1 rs2 => ⟨some .ueq, op, rd, rs1, rs2⟩
  | .uneq op rd rs1 rs2 => ⟨some .uneq, op, rd, rs1, rs2⟩
  | .ugt op rd rs1 rs2 => ⟨some .ugt, op, rd, rs1, rs2⟩
  | .uge op rd rs1 rs2 => ⟨some .uge, op, rd, rs1, rs2⟩
  | .ult op rd rs1 rs2 => ⟨some .ult, op, rd, rs1, rs2⟩
  | .ule op rd rs1 rs2 => ⟨some .ule, op, rd, rs1, rs2⟩
  | .fadd op rd rs1 rs2 => ⟨some .fadd, op, rd, rs1, rs2⟩
  | .fsub op rd rs1 rs2 => ⟨some .fsub, op, rd, rs1, rs2⟩
  | .fmul op rd rs1 rs2 => ⟨some .fmul, op, rd, rs1, rs2⟩
  | .fdiv op rd rs1 rs2 => ⟨some .fdiv, op, rd, rs1, rs2⟩
  | .fmod op rd rs1 rs2 => ⟨some .fmod, op, rd, rs1, rs2⟩
  | .fneg op r xb xc => ⟨some .fneg, op, r, xb, xc⟩
  | .feq op rd rs1 rs2 => ⟨some .feq, op, rd, rs1, rs2⟩
  | .fneq op rd rs1 rs2 => ⟨some .fneq, op, rd, rs1, rs2⟩
  | .fgt op rd rs1 rs2 => ⟨some .fgt, op, rd, rs1, rs2⟩
  | .fge op rd rs1 rs2 => ⟨some .fge, op, rd, rs1, rs2⟩
  | .flt op rd rs1 rs2 => ⟨some .flt, op, rd, rs1, rs2⟩
  | .fle op rd rs1 rs2 => ⟨some .fle, op, rd, rs1, rs2⟩
  | .dadd op rd rs1 rs2 => ⟨some .dadd, op, rd, rs1, rs2⟩
  | .dsub op rd rs1 rs2 => ⟨some .dsub, op, rd, rs1, rs2⟩
  | .dmul op rd rs1 rs2 => ⟨some .dmul, op, rd, rs1, rs2⟩
  | .ddiv op rd rs1 rs2 => ⟨some .ddiv, op, rd, rs1, rs2⟩
  | .dmod op rd rs1 rs2 => ⟨some .dmod, op, rd, rs1, rs2⟩
  | .dneg op r xb xc => ⟨some .dneg, op, r, xb, xc⟩
  | .deq op rd rs1 rs2 => ⟨some .deq, op, rd, rs1, rs2⟩
  | .dneq op rd rs1 rs2 => ⟨some .dneq, op, rd, rs1, rs2⟩
  | .dgt op rd rs1 rs2 => ⟨some .dgt, op, rd, rs1, rs2⟩
  | .dge op rd rs1 rs2 => ⟨some .dge, op, rd, rs1, rs2⟩
  | .dlt op rd rs1 rs2 => ⟨some .dlt, op, rd, rs1, rs2⟩
  | .dle op rd rs1 rs2 => ⟨some .dle, op, rd, rs1, rs2⟩
  | .and op rd rs1 rs2 => ⟨some .and, op, rd, rs1, rs2⟩
  | .or op rd rs1 rs2 => ⟨some .or, op, rd, rs1, rs2⟩
  | .xor op rd rs1 rs2 => ⟨some .xor, op, rd, rs1, rs2⟩
  | .shl op rd rs1 rs2 => ⟨some .shl, op, rd, rs1, rs2⟩
  | .shr op rd rs1 rs2 => ⟨some .shr, op, rd, rs1, rs2⟩
  | .sar op rd rs1 rs2 => ⟨some .sar, op, rd, rs1, rs2⟩
  | .uand op rd rs1 rs2 => ⟨some .uand, op, rd, rs1, rs2⟩
  | .uor op rd rs1 rs2 => ⟨some .uor, op, rd, rs1, rs2⟩
  | .uxor op rd rs1 rs2 => ⟨some .uxor, op, rd, rs1, rs2⟩
  | .ushl op rd rs1 rs2 => ⟨some .ushl, op, rd, rs1, rs2⟩
  | .ushr op rd rs1 rs2 => ⟨some .ushr, op, rd, rs1, rs2⟩
  | .usar op rd rs1 rs2 => ⟨some .usar, op, rd, rs1, rs2⟩
  | .lnot op r xb xc => ⟨some .lnot, op, r, xb, xc⟩
  | .bnot op r xb xc => ⟨some .bnot, op, r, xb, xc⟩
  | .ulnot op r xb xc => ⟨some .ulnot, op, r, xb, xc⟩
  | .ubnot op r xb xc => ⟨some .ubnot, op, r, xb, xc⟩
  | .i2d op a b c => ⟨some .i2d, op, a, b, c⟩
  | .i2f op a b c => ⟨some .i2f, op, a, b, c⟩
  | .d2i op a b c => ⟨some .d2i, op, a, b, c⟩
  | .f2i op a b c => ⟨some .f2i, op, a, b, c⟩
  | .i2u op a b c => ⟨some .i2u, op, a, b, c⟩
  | .u2i op a b c => ⟨some .u2i, op, a, b, c⟩
  | .u2d op a b c => ⟨some .u2d, op, a, b, c⟩
  | .u2f op a b c => ⟨some .u2f, op, a, b, c⟩
  | .d2u op a b c => ⟨some .d2u, op, a, b, c⟩
  | .f2u op a b c => ⟨some .f2u, op, a, b, c⟩
  | .unknown op a b c => ⟨none, op, a, b, c⟩

/-- The instruction a known mnemonic's word stands for (R83, with the operand form of R74). -/
def instrOf : Mnemonic → Byte → Byte → Byte → Byte → Instr
  | .halt, op, a, b, c => .halt op a b c
  | .panic, op, a, b, c => .panic op a b c
  | .jmp, op, a, b, c => .jmp op (a ++ b ++ c)
  | .jmpif, op, a, b, c => .jmpif op a b c
  | .jmpifz, op, a, b, c => .jmpifz op a b c
  | .copy, op, a, b, c => .copy op a b c
  | .move, op, a, b, c => .move op a b c
  | .loadi, op, a, b, c => .loadi op a (b ++ c)
  | .loadc, op, a, b, c => .loadc op a b c
  | .loadg, op, a, b, c => .loadg op a b c
  | .storeg, op, a, b, c => .storeg op a b c
  | .call, op, a, b, c => .call op a b c
  | .tailcall, op, a, b, c => .tailcall op a b c
  | .ret, op, a, b, c => .ret op a b c
  | .add, op, a, b, c => .add op a b c
  | .sub, op, a, b, c => .sub op a b c
  | .mul, op, a, b, c => .mul op a b c
  | .div, op, a, b, c => .div op a b c
  | .mod, op, a, b, c => .mod op a b c
  | .neg, op, a, b, c => .neg op a b c
  | .eq, op, a, b, c => .eq op a b c
  | .neq, op, a, b, c => .neq op a b c
  | .gt, op, a, b, c => .gt op a b c
  | .ge, op, a, b, c => .ge op a b c
  | .lt, op, a, b, c => .lt op a b c
  | .le, op, a, b, c => .le op a b c
  | .uadd, op, a, b, c => .uadd op a b c
  | .usub, op, a, b, c => .usub op a b c
  | .umul, op, a, b, c => .umul op a b c
  | .udiv, op, a, b, c => .udiv op a b c
  | .umod, op, a, b, c => .umod op a b c
  | .uneg, op, a, b, c => .uneg op a b c
  | .ueq, op, a, b, c => .ueq op a b c
  | .uneq, op, a, b, c => .uneq op a b c
  | .ugt, op, a, b, c => .ugt op a b c
  | .uge, op, a, b, c => .uge op a b c
  | .ult, op, a, b, c => .ult op a b c
  | .ule, op, a, b, c => .ule op a b c
  | .fadd, op, a, b, c => .fadd op a b c
  | .fsub, op, a, b, c => .fsub op a b c
  | .fmul, op, a, b, c => .fmul op a b c
  | .fdiv, op, a, b, c => .fdiv op a b c
  | .fmod, op, a, b, c => .fmod op a b c
  | .fneg, op, a, b, c => .fneg op a b c
  | .feq, op, a, b, c => .feq op a b c
  | .fneq, op, a, b, c => .fneq op a b c
  | .fgt, op, a, b, c => .fgt op a b c
  | .fge, op, a, b, c => .fge op a b c
  | .flt, op, a, b, c => .flt op a b c
  | .fle, op, a, b, c => .fle op a b c
  | .dadd, op, a, b, c => .dadd op a b c
  | .dsub, op, a, b, c => .dsub op a b c
  | .dmul, op, a, b, c => .dmul op a b c
  | .ddiv, op, a, b, c => .ddiv op a b c
  | .dmod, op, a, b, c => .dmod op a b c
  | .dneg, op, a, b, c => .dneg op a b c
  | .deq, op, a, b, c => .deq op a b c
  | .dneq, op, a, b, c => .dneq op a b c
  | .dgt, op, a, b, c => .dgt op a b c
  | .dge, op, a, b, c => .dge op a b c
  | .dlt, op, a, b, c => .dlt op a b c
  | .dle, op, a, b, c => .dle op a b c
  | .and, op, a, b, c => .and op a b c
  | .or, op, a, b, c => .or op a b c
  | .xor, op, a, b, c => .xor op a b c
  | .shl, op, a, b, c => .shl op a b c
  | .shr, op, a, b, c => .shr op a b c
  | .sar, op, a, b, c => .sar op a b c
  | .uand, op, a, b, c => .uand op a b c
  | .uor, op, a, b, c => .uor op a b c
  | .uxor, op, a, b, c => .uxor op a b c
  | .ushl, op, a, b, c => .ushl op a b c
  | .ushr, op, a, b, c => .ushr op a b c
  | .usar, op, a, b, c => .usar op a b c
  | .lnot, op, a, b, c => .lnot op a b c
  | .bnot, op, a, b, c => .bnot op a b c
  | .ulnot, op, a, b, c => .ulnot op a b c
  | .ubnot, op, a, b, c => .ubnot op a b c
  | .i2d, op, a, b, c => .i2d op a b c
  | .i2f, op, a, b, c => .i2f op a b c
  | .d2i, op, a, b, c => .d2i op a b c
  | .f2i, op, a, b, c => .f2i op a b c
  | .i2u, op, a, b, c => .i2u op a b c
  | .u2i, op, a, b, c => .u2i op a b c
  | .u2d, op, a, b, c => .u2d op a b c
  | .u2f, op, a, b, c => .u2f op a b c
  | .d2u, op, a, b, c => .d2u op a b c
  | .f2u, op, a, b, c => .f2u op a b c

end Sys2Proof.Machine
end

