-- ==== Sys2Proof/WellFormed.lean ====
section
/-! DEFINITION. When an instruction can be a word's reading: the registry must map the opcode byte it
carries to its mnemonic, or to nothing for the fallback (30_encoding.md rules R82, R83, R87). Every
value of every operand field is allowed (R85, R86). -/

namespace Sys2Proof

/-- The instruction is one that a word can decode to under the registry of `p` and the version `ver`:
`OPREG(ver, op)` is the instruction's mnemonic (R83), or none for the unknown fallback (R87). -/
def Instr.WellFormed (p : Params) (ver : Version) (i : Instr) : Bool :=
  Machine.opReg p ver (Machine.instrFields i).op == (Machine.instrFields i).mn

end Sys2Proof
end

