-- ==== Sys2Proof/Decode.lean ====
section
/-! DEFINITION. The decoder from words and from bytes (30_encoding.md rules R71, R83, R87; the byte
order of 20_memory.md rule R45), and after it the encoder (R70, R72). -/

namespace Sys2Proof

/-- The one reason the byte decoder rejects its input. Decoding a whole word never fails (R86). -/
inductive DecodeReject where
  /-- Fewer than four bytes were given: `avail` of them (R88: every instruction is 4 bytes). -/
  | truncated (avail : Nat)
  deriving DecidableEq, Repr

/-- The instruction a word is, under the registry of `p` and the version `ver` (R83; R87 where the
registry names nothing). Total: no word is illegal (R86). -/
def decodeWord (p : Params) (ver : Version) (w : Word) : Instr :=
  match Machine.opReg p ver (Machine.opField w) with
  | none =>
    .unknown (Machine.opField w) (Machine.faField w) (Machine.fbField w) (Machine.fcField w)
  | some m =>
    Machine.instrOf m (Machine.opField w) (Machine.faField w) (Machine.fbField w)
      (Machine.fcField w)

/-- The first instruction of a byte string in file order, and the bytes after it (R45). -/
def decode (p : Params) (ver : Version) : List Byte → Except DecodeReject (Instr × List Byte)
  | b0 :: b1 :: b2 :: b3 :: rest =>
    .ok (decodeWord p ver (Machine.wordOfBytes p.wordOrder b0 b1 b2 b3), rest)
  | short => .error (.truncated short.length)

/-- The word of an instruction: `opcode:8 | a:8 | b:8 | c:8` (R70). -/
def encode (i : Instr) : Word :=
  let f := Machine.instrFields i
  Machine.packBytes f.op f.a f.b f.c

/-- The bytes of an instruction in an image (R45, R52). -/
def encodeBytes (o : WordOrder) (i : Instr) : List Byte := Machine.wordBytes o (encode i)

/-- The host's reading of one table word: bit 0 is the least significant bit of the word, the bits
above `nbits` are 0, the bytes lie as R45 stores them. The registry is the one the machine is reset
with (`REG_T`, R91), which maps every version alike; the version given is 0. -/
def decodeTableWord (nbits w : Nat) : Option Instr :=
  match decode Machine.resetParams 0
      (Machine.wordBytes .little (BitVec.ofNat 32 (w % 2 ^ nbits))) with
  | .ok (i, _) => some i
  | .error _ => none

end Sys2Proof
end

