-- ==== Sys2Proof/Machine/Ports.lean ====
section
/-! DEFINITION. The data the units take and give: IWD's ports (10_state.md rule R24), the slots, values
and ports of SVD and SVE (R25, R27, R210, R212), the inputs of IWE (R26), the container image and its
header (20_memory.md rules R40 to R42), the conditions (60_exceptions.md rule R250), the listing (R49),
and the requests and reports by which the outside uses the block. -/

namespace Sys2Proof.Machine

/-- The operand roles a decoded word's fields have (the Decode lines of R100 to R209; R74). They are
not ports of R24 but the reading of them that each instruction's rule gives. -/
inductive Roles where
  /-- RAW: no field has a role. -/
  | raw (a b c : Byte)
  /-- ABC: destination and two sources. -/
  | abc (rd rs1 rs2 : Byte)
  /-- A: one register, source and destination. -/
  | a (r : Byte)
  /-- AB: destination and source. -/
  | ab (rd rs : Byte)
  /-- AIMM16: destination and the signed immediate. -/
  | aimm16 (rd : Byte) (imm : Int)
  /-- OFF24: the signed offset. -/
  | off24 (off : Int)
  /-- AOFF8: the register to test and the unsigned offset. -/
  | aoff8 (rt : Byte) (off : Nat)
  /-- AIDX: a register and a pool index. -/
  | aidx (r k : Byte)
  deriving DecidableEq, Repr

/-- IWD's output ports (R24), with the operand roles beside them. -/
structure IwdOut where
  op : Byte
  fa : Byte
  fb : Byte
  fc : Byte
  known : Bool
  mn : BitVec 7
  form : BitVec 3
  cat : BitVec 3
  ty : BitVec 3
  ty2 : BitVec 3
  simm : BitVec 32
  roles : Roles
  deriving DecidableEq, Repr

/-- IWD's input ports (R24). -/
structure IwdIn where
  iw : Word
  ver : Version
  deriving DecidableEq, Repr

/-- The value kinds (R212). -/
inductive Kind where
  | nul | bool | u64 | i64 | float | double | obj | callable
  deriving DecidableEq, Repr

/-- A typed value (R214 to R222). `u64` and `i64` hold integers of any size, because SVE states a
domain for them and refuses the rest (R226, R227); likewise the CALLABLE fields (R231). An unknown
payload is its 8 bytes as their little-endian number, byte i being `payload[8i+7:8i]` (R210). -/
inductive Value where
  | nul
  | bool (b : Bool)
  | u64 (n : Int)
  | i64 (n : Int)
  | float (bits : BitVec 32)
  | double (bits : BitVec 64)
  | obj (raw : BitVec 64)
  | callable (entry argc regc : Nat)
  | unknown (tag : Byte) (payload : BitVec 64)
  deriving DecidableEq, Repr

/-- A 9-byte typed value slot: the tag byte and the little-endian payload (R210). -/
structure Slot where
  tag : Byte
  payload : BitVec 64
  deriving DecidableEq, Repr

/-- SVD's output ports when the slot is not malformed (R25), with the decoded value (R214 to R222). -/
structure SvdOut where
  tag : Byte
  knownTag : Bool
  kind : BitVec 4
  payload : BitVec 64
  bval : Bool
  f32 : BitVec 32
  pad : BitVec 32
  entry : BitVec 32
  argc : BitVec 16
  regc : BitVec 16
  noncanon : Bool
  value : Value
  deriving DecidableEq, Repr

/-- What SVD gives: `malformed = 1`, and then no other output has meaning, or the decoded ports
(R25, R211). -/
inductive SvdResult where
  | malformed (len : Nat)
  | decoded (out : SvdOut)
  deriving DecidableEq, Repr

/-- SVD's inputs (R25): the slot bytes supplied, whose number is `slot_len`, and the version. Bytes
beyond `slot_len` are don't-care and are not represented. -/
structure SvdIn where
  bytes : List Byte
  ver : Version
  deriving DecidableEq, Repr

/-- IWE's inputs (R26): integers of any value. -/
structure IweIn where
  op : Int
  a : Int
  b : Int
  c : Int
  deriving DecidableEq, Repr

/-- SVE's inputs (R27): a value of some kind, and the version whose tag registry applies (R223). -/
structure SveIn where
  ver : Version
  value : Value
  deriving DecidableEq, Repr

/-- A container image (R40): `len` bytes, of which those that are not zero are listed by offset, the
offsets strictly rising. An offset below `len` that is not listed holds a zero byte. -/
structure Image where
  len : Nat
  cells : List Host.Cell
  deriving DecidableEq, Repr

/-- The header fields of an image (R42). -/
structure Header where
  magic : Magic
  ver : Version
  flags : BitVec 16
  n : BitVec 32
  k : BitVec 32
  m : BitVec 32
  deriving DecidableEq, Repr

/-- The two slot sections (R41). -/
inductive Pool where
  | const
  | global
  deriving DecidableEq, Repr

/-- The conditions and the information each records (R250). -/
inductive Condition where
  /-- Code 1: the image is shorter than the header. -/
  | truncatedHeader (len : Nat)
  /-- Code 2: the magic differs from `MAGIC` under `STRICT_MAGIC`. -/
  | badMagic (magic : Magic)
  /-- Code 3: a slot that is not 9 bytes; from the reader also its section and index. -/
  | malformedSlot (len : Nat) (place : Option (Pool × Nat))
  /-- Code 4: the instruction stream ends inside word `index`. -/
  | truncatedStream (index avail : Nat)
  deriving DecidableEq, Repr

/-- An instruction entry of a listing: its index and IWD's outputs (R49). -/
structure WordEntry where
  index : Nat
  out : IwdOut
  deriving DecidableEq, Repr

/-- A pool entry of a listing: its section, its index and SVD's outputs (R49). -/
structure SlotEntry where
  pool : Pool
  index : Nat
  out : SvdOut
  deriving DecidableEq, Repr

/-- What a successful `ReadContainer` returns (R48, R49). -/
structure Listing where
  header : Header
  words : List WordEntry
  consts : List SlotEntry
  globals : List SlotEntry
  deriving DecidableEq, Repr

/-- A `ReadContainer` under way, its header read (R48): the image and the entries made so far. -/
structure Reading where
  image : Image
  header : Header
  words : List WordEntry
  consts : List SlotEntry
  globals : List SlotEntry
  deriving DecidableEq, Repr

/-- An operation the outside asks for. -/
inductive Request where
  /-- `ReadContainer(B)` (R48). -/
  | readImage (image : Image)
  /-- `WriteContainer` (R52): counts and content as given. -/
  | writeImage (ver : Version) (flags : BitVec 16) (n k m : BitVec 32) (words : List Word)
      (consts globals : List Slot)
  /-- IWD on one word (R24). -/
  | decodeWord (iw : Word) (ver : Version)
  /-- SVD on the bytes of one slot (R25). -/
  | decodeSlot (bytes : List Byte) (ver : Version)
  /-- IWE (R26, R72). -/
  | packWord (op a b c : Int)
  /-- The LOADI pack helper (R76). -/
  | packLoadi (ver : Version) (dst v : Int)
  /-- The JMP pack helper (R78). -/
  | packJmp (ver : Version) (v : Int)
  /-- SVE (R27, R223). -/
  | packSlot (ver : Version) (value : Value)
  /-- SVE on the FLOAT made of a host number (R228). -/
  | packHostFloat (ver : Version) (x : BitVec 64)
  /-- Stop iterating the remaining requests (R260). -/
  | cancel
  deriving DecidableEq, Repr

/-- What an operation gave the outside. -/
inductive Report where
  | listing (l : Listing)
  | raised (c : Condition)
  | image (img : Image)
  | word (out : IwdOut)
  | slot (out : SvdOut)
  | packedWord (iw : Word)
  | packedSlot (slot : Slot)
  deriving DecidableEq, Repr

end Sys2Proof.Machine
end

