-- ==== Sys2Proof/Machine/Operands.lean ====
section
/-! DEFINITION. The operand forms (30_encoding.md rules R74, R75): for each form, IWD's outputs for a
known mnemonic of that form, and IWD as one function of the word (R83, R87). -/

namespace Sys2Proof.Machine

/-- The `simm` port of a form (R75). -/
def simmOf (f : Form) (fa fb fc : Byte) : BitVec 32 :=
  match f with
  | .aimm16 => sext32 (fb ++ fc)
  | .off24 => sext32 (fa ++ fb ++ fc)
  | .aoff8 => zext32 fc
  | .raw | .abc | .a | .ab | .aidx => 0

/-- The roles a form gives the fields (R74). -/
def rolesOf (f : Form) (fa fb fc : Byte) : Roles :=
  match f with
  | .raw => .raw fa fb fc
  | .abc => .abc fa fb fc
  | .a => .a fa
  | .ab => .ab fa fb
  | .aimm16 => .aimm16 fa (toSigned (fb ++ fc))
  | .off24 => .off24 (toSigned (fa ++ fb ++ fc))
  | .aoff8 => .aoff8 fa fc.toNat
  | .aidx => .aidx fa fb

/-- IWD's outputs for an unknown opcode (R87). -/
def iwdUnknown (op a b c : Byte) : IwdOut :=
  { op := op, fa := a, fb := b, fc := c, known := false, mn := 127, form := formCode .raw,
    cat := catCode .unknown, ty := tyCode .none, ty2 := tyCode .none, simm := 0,
    roles := .raw a b c }

/-- IWD (R83): the outputs as a function of the word, the version and the registry. -/
def iwd (p : Params) (ver : Version) (w : Word) : IwdOut :=
  match opReg p ver (opField w) with
  | none => iwdUnknown (opField w) (faField w) (fbField w) (fcField w)
  | some m =>
    { op := opField w, fa := faField w, fb := fbField w, fc := fcField w, known := true,
      mn := (mnInfo m).id, form := formCode (mnInfo m).form, cat := catCode (mnInfo m).cat,
      ty := tyCode (mnInfo m).ty, ty2 := tyCode (mnInfo m).ty2,
      simm := simmOf (mnInfo m).form (faField w) (fbField w) (fcField w),
      roles := rolesOf (mnInfo m).form (faField w) (fbField w) (fcField w) }

/-- Outputs of a known mnemonic of form RAW (R74). -/
def iwdRaw (mn : BitVec 7) (cat : Category) (ty ty2 : Ty) (op a b c : Byte) : IwdOut :=
  { op := op, fa := a, fb := b, fc := c, known := true, mn := mn, form := formCode .raw,
    cat := catCode cat, ty := tyCode ty, ty2 := tyCode ty2, simm := 0, roles := .raw a b c }

/-- Outputs of a known mnemonic of form ABC (R74). -/
def iwdAbc (mn : BitVec 7) (cat : Category) (ty ty2 : Ty) (op rd rs1 rs2 : Byte) : IwdOut :=
  { op := op, fa := rd, fb := rs1, fc := rs2, known := true, mn := mn, form := formCode .abc,
    cat := catCode cat, ty := tyCode ty, ty2 := tyCode ty2, simm := 0, roles := .abc rd rs1 rs2 }

/-- Outputs of a known mnemonic of form A (R74); `xb` and `xc` are unused and reported raw (R85). -/
def iwdA (mn : BitVec 7) (cat : Category) (ty ty2 : Ty) (op r xb xc : Byte) : IwdOut :=
  { op := op, fa := r, fb := xb, fc := xc, known := true, mn := mn, form := formCode .a,
    cat := catCode cat, ty := tyCode ty, ty2 := tyCode ty2, simm := 0, roles := .a r }

/-- Outputs of a known mnemonic of form AB (R74); `xc` is unused and reported raw (R85). -/
def iwdAb (mn : BitVec 7) (cat : Category) (ty ty2 : Ty) (op rd rs xc : Byte) : IwdOut :=
  { op := op, fa := rd, fb := rs, fc := xc, known := true, mn := mn, form := formCode .ab,
    cat := catCode cat, ty := tyCode ty, ty2 := tyCode ty2, simm := 0, roles := .ab rd rs }

/-- Outputs of a known mnemonic of form AIMM16 (R74, R75). -/
def iwdAimm16 (mn : BitVec 7) (cat : Category) (ty ty2 : Ty) (op rd : Byte) (imm : BitVec 16) :
    IwdOut :=
  { op := op, fa := rd, fb := bits imm 8, fc := bits imm 0, known := true, mn := mn,
    form := formCode .aimm16, cat := catCode cat, ty := tyCode ty, ty2 := tyCode ty2,
    simm := sext32 imm, roles := .aimm16 rd (toSigned imm) }

/-- Outputs of a known mnemonic of form OFF24 (R74, R75). -/
def iwdOff24 (mn : BitVec 7) (cat : Category) (ty ty2 : Ty) (op : Byte) (off : BitVec 24) :
    IwdOut :=
  { op := op, fa := bits off 16, fb := bits off 8, fc := bits off 0, known := true, mn := mn,
    form := formCode .off24, cat := catCode cat, ty := tyCode ty, ty2 := tyCode ty2,
    simm := sext32 off, roles := .off24 (toSigned off) }

/-- Outputs of a known mnemonic of form AOFF8 (R74, R75); `xb` is unused and reported raw (R85). -/
def iwdAoff8 (mn : BitVec 7) (cat : Category) (ty ty2 : Ty) (op rt xb off : Byte) : IwdOut :=
  { op := op, fa := rt, fb := xb, fc := off, known := true, mn := mn, form := formCode .aoff8,
    cat := catCode cat, ty := tyCode ty, ty2 := tyCode ty2, simm := zext32 off,
    roles := .aoff8 rt off.toNat }

/-- Outputs of a known mnemonic of form AIDX (R74); `xc` is unused and reported raw (R85). -/
def iwdAidx (mn : BitVec 7) (cat : Category) (ty ty2 : Ty) (op r k xc : Byte) : IwdOut :=
  { op := op, fa := r, fb := k, fc := xc, known := true, mn := mn, form := formCode .aidx,
    cat := catCode cat, ty := tyCode ty, ty2 := tyCode ty2, simm := 0, roles := .aidx r k }

/-- The word index a consumer jumps to from word `i` (R22, R102, decision D20). Consumer side only:
no unit of the block computes a target. -/
def jumpTarget (base : JmpBase) (i : Nat) (off : Int) : Int :=
  match base with
  | .current => i + off
  | .next => i + 1 + off

end Sys2Proof.Machine
end

