-- ==== Sys2Proof/Machine/Flags.lean ====
section
/-! DEFINITION. The block has no flags (10_state.md rule R23). What stands here are the status outputs
of single operations that R23 names: `known_tag`, `noncanon`, `bval` of SVD, and the condition code of
60_exceptions.md rule R250. `known` of IWD stands in Operands.lean, `malformed` is `SvdResult`. -/

namespace Sys2Proof.Machine

/-- `TAGREG(ver, tag)` (R213, decision D12): the one table of R212, for every version. -/
def tagReg (_ver : Version) (tag : Byte) : Option Kind :=
  match tag.toNat with
  | 0 => some .nul
  | 1 => some .bool
  | 2 => some .u64
  | 3 => some .i64
  | 4 => some .float
  | 5 => some .double
  | 6 => some .obj
  | 7 => some .callable
  | _ => none

/-- The `kind` code of a kind (R212). -/
def kindCode : Kind → BitVec 4
  | .nul => 0 | .bool => 1 | .u64 => 2 | .i64 => 3 | .float => 4 | .double => 5 | .obj => 6
  | .callable => 7

/-- The `kind` port (R212, R213): 15 for an unknown tag. -/
def kindPort : Option Kind → BitVec 4
  | some k => kindCode k
  | none => 15

/-- `known_tag` (R213). -/
def knownTag (k : Option Kind) : Bool := k.isSome

/-- `bval` (R25, R215). -/
def bvalOf (payload : BitVec 64) : Bool := payload != 0

/-- `noncanon` (R214 to R222, R233). -/
def noncanonOf (k : Option Kind) (payload : BitVec 64) : Bool :=
  match k with
  | some .nul => payload != 0
  | some .bool => payload != 0 && payload != 1
  | some .float => payload.extractLsb' 32 32 != 0
  | some .u64 | some .i64 | some .double | some .obj | some .callable | none => false

/-- The code of a condition (R250). -/
def conditionCode : Condition → Nat
  | .truncatedHeader _ => 1
  | .badMagic _ => 2
  | .malformedSlot _ _ => 3
  | .truncatedStream _ _ => 4

/-- The code of the status output: 0 when the operation completed (R250). DESIGN CHOICE (log 8): 0 also at
reset and while a reading is under way, where the spec gives no code. -/
def statusCode : Option Condition → Nat
  | none => 0
  | some c => conditionCode c

end Sys2Proof.Machine
end

