-- ==== Sys2Proof/Machine/Slots.lean ====
section
/-! DEFINITION. The slot codec: SVD (46_value_slot.md rules R210 to R222) and SVE (R223 to R232). -/

namespace Sys2Proof.Machine

/-- The 9 bytes of a slot, the tag first (R210, R223). -/
def slotBytes (s : Slot) : List Byte := s.tag :: leBytes 8 s.payload.toNat

/-- `slot[71:0]` of a slot: byte k at `slot[8k+7:8k]` (R25, R210). -/
def slotPort (s : Slot) : BitVec 72 := s.payload ++ s.tag

/-- The decoded value, by kind (R214 to R222). -/
def valueOf (tag : Byte) (k : Option Kind) (payload : BitVec 64) : Value :=
  match k with
  | some .nul => .nul
  | some .bool => .bool (bvalOf payload)
  | some .u64 => .u64 payload.toNat
  | some .i64 => .i64 (toSigned payload)
  | some .float => .float (payload.extractLsb' 0 32)
  | some .double => .double payload
  | some .obj => .obj payload
  | some .callable =>
    .callable (payload.extractLsb' 0 32).toNat (payload.extractLsb' 32 16).toNat
      (payload.extractLsb' 48 16).toNat
  | none => .unknown tag payload

/-- SVD's outputs for a 9-byte slot (R25, R213 to R222). -/
def svdSlot (ver : Version) (s : Slot) : SvdOut :=
  let k := tagReg ver s.tag
  { tag := s.tag, knownTag := knownTag k, kind := kindPort k, payload := s.payload,
    bval := bvalOf s.payload, f32 := s.payload.extractLsb' 0 32, pad := s.payload.extractLsb' 32 32,
    entry := s.payload.extractLsb' 0 32, argc := s.payload.extractLsb' 32 16,
    regc := s.payload.extractLsb' 48 16, noncanon := noncanonOf k s.payload,
    value := valueOf s.tag k s.payload }

/-- SVD (R210, R211): the length check first, then the tag. -/
def svd (ver : Version) (bytes : List Byte) : SvdResult :=
  match bytes with
  | tag :: payload =>
    if payload.length = 8 then .decoded (svdSlot ver ⟨tag, BitVec.ofNat 64 (leNat payload)⟩)
    else .malformed bytes.length
  | [] => .malformed 0

/-- SVD on its ports (R25): `slot[71:0]`, `slot_len[3:0]` and `ver`. -/
def svdPorts (ver : Version) (slot : BitVec 72) (slotLen : BitVec 4) : SvdResult :=
  if slotLen = 9 then .decoded (svdSlot ver ⟨slot.extractLsb' 0 8, slot.extractLsb' 8 64⟩)
  else .malformed slotLen.toNat

/-- `TAGNUM(ver, k)` (R223): the tag equal to the kind code. -/
def tagNum (_ver : Version) (k : Kind) : Byte := (kindCode k).setWidth 8

/-- SVE (R223 to R232). `none` is a refusal: a field outside the domain its rule states (R12). -/
def sve (ver : Version) (v : Value) : Option Slot :=
  match v with
  | .nul => some ⟨tagNum ver .nul, 0⟩
  | .bool b => some ⟨tagNum ver .bool, if b then 1 else 0⟩
  | .u64 n => if 0 ≤ n ∧ n < 2 ^ 64 then some ⟨tagNum ver .u64, toUnsigned 64 n⟩ else none
  | .i64 n => if -2 ^ 63 ≤ n ∧ n < 2 ^ 63 then some ⟨tagNum ver .i64, toUnsigned 64 n⟩ else none
  | .float f => some ⟨tagNum ver .float, f.setWidth 64⟩
  | .double d => some ⟨tagNum ver .double, d⟩
  | .obj raw => some ⟨tagNum ver .obj, raw⟩
  | .callable entry argc regc =>
    if entry < 2 ^ 32 ∧ argc < 2 ^ 16 ∧ regc < 2 ^ 16 then
      some ⟨tagNum ver .callable, BitVec.ofNat 64 (entry + argc * 2 ^ 32 + regc * 2 ^ 48)⟩
    else none
  | .unknown tag payload => some ⟨tag, payload⟩

end Sys2Proof.Machine
end

