-- ==== Sys2Proof/Machine/Packing.lean ====
section
/-! DEFINITION. IWE and its helpers (30_encoding.md rules R72, R76, R78). -/

namespace Sys2Proof.Machine

/-- IWE (R72): a, b and c are masked, an opcode outside 0..255 is refused (`none`). -/
def iwe (i : IweIn) : Option Word :=
  if 0 ≤ i.op ∧ i.op < 256 then
    some (packBytes (toUnsigned 8 i.op) (low8 i.a) (low8 i.b) (low8 i.c))
  else none

/-- The inputs the LOADI helper gives IWE (R76): `b = u[15:8]`, `c = u[7:0]` for `u = v mod 2^16`.
`none` where the registry names no opcode for LOADI. -/
def loadiFields (p : Params) (ver : Version) (dst v : Int) : Option IweIn :=
  (opNum p ver .loadi).map fun op =>
    ⟨op.toNat, dst, (bits (toUnsigned 16 v) 8).toNat, (bits (toUnsigned 16 v) 0).toNat⟩

/-- The inputs the JMP helper gives IWE (R78): the three bytes of `u = v mod 2^24`. `none` where the
registry names no opcode for JMP. -/
def jmpFields (p : Params) (ver : Version) (v : Int) : Option IweIn :=
  (opNum p ver .jmp).map fun op =>
    ⟨op.toNat, (bits (toUnsigned 24 v) 16).toNat, (bits (toUnsigned 24 v) 8).toNat,
      (bits (toUnsigned 24 v) 0).toNat⟩

end Sys2Proof.Machine
end

