-- ==== Sys2Proof/Machine/State.lean ====
section
/-! DEFINITION. The machine's state, the reasons a step can stop, and the state after reset. -/

namespace Sys2Proof.Machine

/-- The machine faults on no path: 93_implementation_defined.md says that no behaviour of the block is
stuck, and a condition (R250) ends one operation and is a next state (R258, R259). So this type has no
constructor. -/
inductive Fault where
  deriving DecidableEq, Repr

/-- Inputs to which the spec gives no result (00_scope.md rule R12). All are pack-side. -/
inductive Refusal where
  /-- Raised by `exec` for an instruction without a meaning; no arm does. Safe. -/
  | notModelled (mnemonic : String)
  /-- Raised for a word request whose opcode number is outside 0..255 (R72). Safe: the spec refuses. -/
  | opcodeOutOfRange (op : Int)
  /-- Raised for a value request outside the value's domain (R226, R227, R231). Safe: the spec
  refuses. -/
  | valueOutOfRange (value : Value)
  /-- Raised for a LOADI or JMP helper request under a registry that names no opcode for it; R82 gives
  `OPNUM` only where it exists. Safe. -/
  | noOpcode (mn : Mnemonic)
  deriving DecidableEq, Repr

/-- The state. The block has no architectural state of its own (10_state.md rule R20). The fields are
the static parameters, the ports of the four units with the values they carry (R24 to R27), and the
front end's position: see INVENTORY.md and log 1. -/
structure State where
  /-- The static parameters (R6, R28); no step changes them. -/
  params : Params
  /-- The operations asked for and not yet begun, in order. -/
  requests : List Request
  /-- The `ReadContainer` under way (R48), if any. -/
  reading : Option Reading
  /-- IWD's inputs (R24). -/
  iwdIn : IwdIn
  /-- IWD's outputs (R24). -/
  iwdOut : IwdOut
  /-- SVD's inputs (R25). -/
  svdIn : SvdIn
  /-- SVD's outputs (R25). -/
  svdOut : SvdResult
  /-- IWE's inputs (R26). -/
  iweIn : IweIn
  /-- IWE's output (R26). -/
  iweOut : Word
  /-- SVE's inputs (R27). -/
  sveIn : SveIn
  /-- SVE's output (R27). -/
  sveOut : Slot
  /-- The condition the last operation raised, if it raised one (R250). DESIGN CHOICE (log 8): none also at
  reset and while a reading is under way; held through a cancel and an idle step. -/
  status : Option Condition
  /-- What the operations so far gave the outside, in order. -/
  reports : List Report
  deriving DecidableEq, Repr

/-- The machine after reset (R29, R270): reset sets nothing, so no operation is asked for or under way,
nothing has been reported, and the outputs are the functions of the inputs present then. DESIGN CHOICE
(log 5): the inputs present are zeros, nine zero bytes, and NUL. DESIGN CHOICE (log 8): `status` is none. -/
def State.reset : State :=
  { params := resetParams
    requests := []
    reading := none
    iwdIn := ⟨0, 0⟩
    iwdOut := iwd resetParams 0 0
    svdIn := ⟨[0, 0, 0, 0, 0, 0, 0, 0, 0], 0⟩
    svdOut := svd 0 [0, 0, 0, 0, 0, 0, 0, 0, 0]
    iweIn := ⟨0, 0, 0, 0⟩
    iweOut := packBytes 0 0 0 0
    sveIn := ⟨0, .nul⟩
    sveOut := ⟨tagNum 0 .nul, 0⟩
    status := none
    reports := [] }

end Sys2Proof.Machine
end

