-- ==== Sys2Proof/Machine/Ops.lean ====
section
/-! DEFINITION. The operations on images (00_scope.md rule R9, 20_memory.md rules R40 to R46), on the
ports of the units, and the ends of an operation: completing, and raising a condition
(60_exceptions.md rules R250, R258, R259). -/

namespace Sys2Proof.Machine

/-- What an offset below an image's length holds when the list does not name it. Every image is written
in this form, so the choice loses nothing (log 9). -/
def unlistedByte : Byte := 0

/-- The byte a canonical list holds at an offset. -/
def Memory.read : List Host.Cell → Nat → Byte
  | [], _ => unlistedByte
  | (k, b) :: rest, a => if k = a then b else Memory.read rest a

/-- The list with the byte at one offset replaced, in canonical form. -/
def Memory.write : List Host.Cell → Nat → Byte → List Host.Cell
  | [], a, v => if v = unlistedByte then [] else [(a, v)]
  | (k, b) :: rest, a, v =>
    if a < k then if v = unlistedByte then (k, b) :: rest else (a, v) :: (k, b) :: rest
    else if a = k then if v = unlistedByte then rest else (a, v) :: rest
    else (k, b) :: Memory.write rest a v

/-- The list of a byte string laid from an offset on. -/
def Memory.ofBytes : Nat → List Byte → List Host.Cell
  | _, [] => []
  | o, b :: bs => if b = unlistedByte then Memory.ofBytes (o + 1) bs
    else (o, b) :: Memory.ofBytes (o + 1) bs

/-- Offsets strictly rise from `lo` on, and no entry holds what an unlisted offset holds. -/
def Memory.wfFrom : Nat → List Host.Cell → Bool
  | _, [] => true
  | lo, (k, b) :: rest => lo ≤ k && b != unlistedByte && Memory.wfFrom (k + 1) rest

/-- The canonical form of a list of cells. -/
def Memory.wf (m : List Host.Cell) : Bool := Memory.wfFrom 0 m

/-- The canonical form of an image: a canonical list whose offsets lie below the length. -/
def Image.wf (img : Image) : Bool :=
  Memory.wf img.cells && img.cells.all fun c => c.1 < img.len

/-- The byte at an offset of the image, if the image has one there. -/
def Image.byteAt (img : Image) (o : Nat) : Option Byte :=
  if o < img.len then some (Memory.read img.cells o) else none

/-- `ReadBytes(o, n)` (R9): the `n` bytes from `o`, or those of them that exist. -/
def Image.readBytes (img : Image) : Nat → Nat → List Byte
  | _, 0 => []
  | o, n + 1 =>
    match img.byteAt o with
    | none => []
    | some b => b :: img.readBytes (o + 1) n

/-- `LE_n(B, o)` (R9). -/
def Image.le (img : Image) (o n : Nat) : Nat := leNat (img.readBytes o n)

/-- The image that is a byte string. -/
def Image.ofBytes (bs : List Byte) : Image := ⟨bs.length, Memory.ofBytes 0 bs⟩

/-- The image with one byte placed at an offset, grown if the offset lies past its end. -/
def Image.setByte (img : Image) (o : Nat) (v : Byte) : Image :=
  ⟨max img.len (o + 1), Memory.write img.cells o v⟩

/-- The image with bytes placed from an offset on. -/
def Image.setBytes (img : Image) : Nat → List Byte → Image
  | _, [] => img
  | o, b :: bs => (img.setByte o b).setBytes (o + 1) bs

/-- The number of header bytes (R6 `HEADER_BYTES`). -/
def headerBytes : Nat := 20

/-- The offset of word `i` (R45). -/
def wordOffset (i : Nat) : Nat := headerBytes + 4 * i

/-- The offset of slot `j` of a pool (R46). -/
def slotOffset (h : Header) (pool : Pool) (j : Nat) : Nat :=
  match pool with
  | .const => headerBytes + 4 * h.n.toNat + 9 * j
  | .global => headerBytes + 4 * h.n.toNat + 9 * h.k.toNat + 9 * j

/-- The four magic bytes `B[0..4)` (R42, R43). -/
def Image.magic (img : Image) : Magic :=
  ⟨BitVec.ofNat 8 (img.le 0 1), BitVec.ofNat 8 (img.le 1 1), BitVec.ofNat 8 (img.le 2 1),
    BitVec.ofNat 8 (img.le 3 1)⟩

/-- The header fields at their offsets (R42). -/
def Image.header (img : Image) : Header :=
  { magic := img.magic
    ver := BitVec.ofNat 16 (img.le 4 2)
    flags := BitVec.ofNat 16 (img.le 6 2)
    n := BitVec.ofNat 32 (img.le 8 4)
    k := BitVec.ofNat 32 (img.le 12 4)
    m := BitVec.ofNat 32 (img.le 16 4) }

/-- The header of an image, or the condition its reading raises: length before magic (R48, R257). -/
def readHeader (p : Params) (img : Image) : Except Condition Header :=
  if img.len < headerBytes then .error (.truncatedHeader img.len)
  else if p.strictMagic && img.magic != p.magic then .error (.badMagic img.magic)
  else .ok img.header

/-- `verbose = flags[0]` (R44, R49). -/
def Header.verbose (h : Header) : Bool := h.flags.getLsbD 0

/-- Drive IWD's input ports (R24). -/
def State.driveIwdIn (s : State) (iw : Word) (ver : Version) : State :=
  { s with iwdIn := ⟨iw, ver⟩ }

/-- Drive IWD's output ports (R24): all an instruction's meaning does. -/
def State.driveIwdOut (s : State) (o : IwdOut) : State := { s with iwdOut := o }

/-- Present bytes and a version to SVD, which answers on its output ports (R25). -/
def State.driveSvd (s : State) (bytes : List Byte) (ver : Version) : State :=
  { s with svdIn := ⟨bytes, ver⟩, svdOut := svd ver bytes }

/-- Present inputs to IWE, whose output is `iw` (R26). -/
def State.driveIwe (s : State) (i : IweIn) (iw : Word) : State :=
  { s with iweIn := i, iweOut := iw }

/-- Present a value to SVE, whose output is the slot (R27). -/
def State.driveSve (s : State) (ver : Version) (v : Value) (slot : Slot) : State :=
  { s with sveIn := ⟨ver, v⟩, sveOut := slot }

/-- The operation completes with an output (code 0 of R250). -/
def State.complete (s : State) (r : Report) : State :=
  { s with reading := none, status := none, reports := s.reports ++ [r] }

/-- Raise a condition (R10, R258): the operation ends with the condition's code and information and no
other output. There is no return (R259): the next request starts with nothing carried over. -/
def State.raise (s : State) (c : Condition) : State :=
  { s with reading := none, status := some c, reports := s.reports ++ [.raised c] }

/-- A `ReadContainer` whose header has been read goes on to the sections (R48). DESIGN CHOICE (log 8):
`status` is none, code 0, while it is under way; R250 gives code 0 only for an operation that has
completed, and the spec has no status for one that has not ended. -/
def State.startReading (s : State) (img : Image) (h : Header) : State :=
  { s with reading := some ⟨img, h, [], [], []⟩, status := none }

/-- Enter the word IWD has just decoded into the listing (`W[i]` of R48), at the next index. -/
def State.recordWord (s : State) (r : Reading) : State :=
  { s with reading := some { r with words := r.words ++ [⟨r.words.length, s.iwdOut⟩] } }

/-- The entries of a pool made so far. -/
def Reading.entries (r : Reading) : Pool → List SlotEntry
  | .const => r.consts
  | .global => r.globals

/-- Enter a decoded slot into the listing (`C[j]` or `G[j]` of R48), at the next index. -/
def State.recordSlot (s : State) (r : Reading) (pool : Pool) (o : SvdOut) : State :=
  match pool with
  | .const => { s with reading := some { r with consts := r.consts ++ [⟨.const, r.consts.length, o⟩] } }
  | .global =>
    { s with reading := some { r with globals := r.globals ++ [⟨.global, r.globals.length, o⟩] } }

/-- The listing of a reading whose sections are done (R48, R49). -/
def Reading.listing (r : Reading) : Listing := ⟨r.header, r.words, r.consts, r.globals⟩

/-- The reading that `State.withFetchWord` places a word in: the one under way if its next step fetches
a word, else a new one of one word under the version IWD last saw (log 10). -/
def State.fetchReading (s : State) : Reading :=
  let new : Reading := ⟨⟨0, []⟩, ⟨s.params.magic, s.iwdIn.ver, 0, 1, 0, 0⟩, [], [], []⟩
  match s.reading with
  | some r => if r.words.length < r.header.n.toNat then r else new
  | none => new

/-- Place a word where the next step fetches (R45). -/
def State.placeWord (s : State) (w : Word) : State :=
  let r := s.fetchReading
  { s with
    reading := some { r with
      image := r.image.setBytes (wordOffset r.words.length) (wordBytes s.params.wordOrder w) } }

end Sys2Proof.Machine
end

