-- ==== Sys2Proof/Machine/Container.lean ====
section
/-! DEFINITION. `ReadContainer` as one function (20_memory.md rule R48), written from its pseudocode with
the running offset `o`: what a reading stepped by Reader.lean must give. -/

namespace Sys2Proof.Machine

/-- The loop over the words (R48), with `left` words to go. -/
def readWords (p : Params) (img : Image) (ver : Version) :
    Nat → Nat → Nat → Except Condition (List WordEntry)
  | 0, _, _ => .ok []
  | left + 1, i, o =>
    if img.len < o + 4 then .error (.truncatedStream i (img.len - o))
    else
      match img.readBytes o 4 with
      | [b0, b1, b2, b3] =>
        match readWords p img ver left (i + 1) (o + 4) with
        | .error c => .error c
        | .ok es => .ok (⟨i, iwd p ver (wordOfBytes p.wordOrder b0 b1 b2 b3)⟩ :: es)
      | _ => .error (.truncatedStream i (img.len - o))

/-- The loop over the slots of one section (R48), with `left` slots to go. -/
def readSlots (img : Image) (ver : Version) (pool : Pool) :
    Nat → Nat → Nat → Except Condition (List SlotEntry)
  | 0, _, _ => .ok []
  | left + 1, j, o =>
    match svd ver (img.readBytes o 9) with
    | .malformed len => .error (.malformedSlot len (some (pool, j)))
    | .decoded out =>
      match readSlots img ver pool left (j + 1) (o + 9) with
      | .error c => .error c
      | .ok es => .ok (⟨pool, j, out⟩ :: es)

/-- `ReadContainer(B)` (R48): a listing, or the first condition met. -/
def readContainer (p : Params) (img : Image) : Except Condition Listing :=
  match readHeader p img with
  | .error c => .error c
  | .ok h =>
    match readWords p img h.ver h.n.toNat 0 headerBytes with
    | .error c => .error c
    | .ok ws =>
      match readSlots img h.ver .const h.k.toNat 0 (headerBytes + 4 * h.n.toNat) with
      | .error c => .error c
      | .ok cs =>
        match readSlots img h.ver .global h.m.toNat 0
            (headerBytes + 4 * h.n.toNat + 9 * h.k.toNat) with
        | .error c => .error c
        | .ok gs => .ok ⟨h, ws, cs, gs⟩

/-- How the outcome of one image is reported (R258). -/
def reportOf : Except Condition Listing → Report
  | .ok l => .listing l
  | .error c => .raised c

end Sys2Proof.Machine
end

