-- ==== Sys2Proof/Machine/Arithmetic.lean ====
section
/-! DEFINITION. The arithmetic and comparison instructions of 43_arithmetic.md: each drives IWD's output ports as its rule's
Decode lines say, and changes nothing else. No flag is written and no condition raised (R23, R252). -/

namespace Sys2Proof.Machine

/-- R130 ADD. -/
def execAdd (op rd rs1 rs2 : Byte) (s : State) :
    Host.Outcome State Fault Refusal :=
  .next (s.driveIwdOut (iwdAbc 14 .arith .i64 .i64 op rd rs1 rs2))

/-- R131 SUB. -/
def execSub (op rd rs1 rs2 : Byte) (s : State) :
    Host.Outcome State Fault Refusal :=
  .next (s.driveIwdOut (iwdAbc 15 .arith .i64 .i64 op rd rs1 rs2))

/-- R132 MUL. -/
def execMul (op rd rs1 rs2 : Byte) (s : State) :
    Host.Outcome State Fault Refusal :=
  .next (s.driveIwdOut (iwdAbc 16 .arith .i64 .i64 op rd rs1 rs2))

/-- R133 DIV. -/
def execDiv (op rd rs1 rs2 : Byte) (s : State) :
    Host.Outcome State Fault Refusal :=
  .next (s.driveIwdOut (iwdAbc 17 .arith .i64 .i64 op rd rs1 rs2))

/-- R134 MOD. -/
def execMod (op rd rs1 rs2 : Byte) (s : State) :
    Host.Outcome State Fault Refusal :=
  .next (s.driveIwdOut (iwdAbc 18 .arith .i64 .i64 op rd rs1 rs2))

/-- R135 NEG. -/
def execNeg (op r xb xc : Byte) (s : State) :
    Host.Outcome State Fault Refusal :=
  .next (s.driveIwdOut (iwdA 19 .arith .i64 .i64 op r xb xc))

/-- R136 EQ. -/
def execEq (op rd rs1 rs2 : Byte) (s : State) :
    Host.Outcome State Fault Refusal :=
  .next (s.driveIwdOut (iwdAbc 20 .arith .i64 .none op rd rs1 rs2))

/-- R137 NEQ. -/
def execNeq (op rd rs1 rs2 : Byte) (s : State) :
    Host.Outcome State Fault Refusal :=
  .next (s.driveIwdOut (iwdAbc 21 .arith .i64 .none op rd rs1 rs2))

/-- R138 GT. -/
def execGt (op rd rs1 rs2 : Byte) (s : State) :
    Host.Outcome State Fault Refusal :=
  .next (s.driveIwdOut (iwdAbc 22 .arith .i64 .none op rd rs1 rs2))

/-- R139 GE. -/
def execGe (op rd rs1 rs2 : Byte) (s : State) :
    Host.Outcome State Fault Refusal :=
  .next (s.driveIwdOut (iwdAbc 23 .arith .i64 .none op rd rs1 rs2))

/-- R140 LT. -/
def execLt (op rd rs1 rs2 : Byte) (s : State) :
    Host.Outcome State Fault Refusal :=
  .next (s.driveIwdOut (iwdAbc 24 .arith .i64 .none op rd rs1 rs2))

/-- R141 LE. -/
def execLe (op rd rs1 rs2 : Byte) (s : State) :
    Host.Outcome State Fault Refusal :=
  .next (s.driveIwdOut (iwdAbc 25 .arith .i64 .none op rd rs1 rs2))

/-- R142 UADD. -/
def execUadd (op rd rs1 rs2 : Byte) (s : State) :
    Host.Outcome State Fault Refusal :=
  .next (s.driveIwdOut (iwdAbc 26 .arith .u64 .u64 op rd rs1 rs2))

/-- R143 USUB. -/
def execUsub (op rd rs1 rs2 : Byte) (s : State) :
    Host.Outcome State Fault Refusal :=
  .next (s.driveIwdOut (iwdAbc 27 .arith .u64 .u64 op rd rs1 rs2))

/-- R144 UMUL. -/
def execUmul (op rd rs1 rs2 : Byte) (s : State) :
    Host.Outcome State Fault Refusal :=
  .next (s.driveIwdOut (iwdAbc 28 .arith .u64 .u64 op rd rs1 rs2))

/-- R145 UDIV. -/
def execUdiv (op rd rs1 rs2 : Byte) (s : State) :
    Host.Outcome State Fault Refusal :=
  .next (s.driveIwdOut (iwdAbc 29 .arith .u64 .u64 op rd rs1 rs2))

/-- R146 UMOD. -/
def execUmod (op rd rs1 rs2 : Byte) (s : State) :
    Host.Outcome State Fault Refusal :=
  .next (s.driveIwdOut (iwdAbc 30 .arith .u64 .u64 op rd rs1 rs2))

/-- R147 UNEG. -/
def execUneg (op r xb xc : Byte) (s : State) :
    Host.Outcome State Fault Refusal :=
  .next (s.driveIwdOut (iwdA 31 .arith .u64 .u64 op r xb xc))

/-- R148 UEQ. -/
def execUeq (op rd rs1 rs2 : Byte) (s : State) :
    Host.Outcome State Fault Refusal :=
  .next (s.driveIwdOut (iwdAbc 32 .arith .u64 .none op rd rs1 rs2))

/-- R149 UNEQ. -/
def execUneq (op rd rs1 rs2 : Byte) (s : State) :
    Host.Outcome State Fault Refusal :=
  .next (s.driveIwdOut (iwdAbc 33 .arith .u64 .none op rd rs1 rs2))

/-- R150 UGT. -/
def execUgt (op rd rs1 rs2 : Byte) (s : State) :
    Host.Outcome State Fault Refusal :=
  .next (s.driveIwdOut (iwdAbc 34 .arith .u64 .none op rd rs1 rs2))

/-- R151 UGE. -/
def execUge (op rd rs1 rs2 : Byte) (s : State) :
    Host.Outcome State Fault Refusal :=
  .next (s.driveIwdOut (iwdAbc 35 .arith .u64 .none op rd rs1 rs2))

/-- R152 ULT. -/
def execUlt (op rd rs1 rs2 : Byte) (s : State) :
    Host.Outcome State Fault Refusal :=
  .next (s.driveIwdOut (iwdAbc 36 .arith .u64 .none op rd rs1 rs2))

/-- R153 ULE. -/
def execUle (op rd rs1 rs2 : Byte) (s : State) :
    Host.Outcome State Fault Refusal :=
  .next (s.driveIwdOut (iwdAbc 37 .arith .u64 .none op rd rs1 rs2))

/-- R154 FADD. -/
def execFadd (op rd rs1 rs2 : Byte) (s : State) :
    Host.Outcome State Fault Refusal :=
  .next (s.driveIwdOut (iwdAbc 38 .arith .f32 .f32 op rd rs1 rs2))

/-- R155 FSUB. -/
def execFsub (op rd rs1 rs2 : Byte) (s : State) :
    Host.Outcome State Fault Refusal :=
  .next (s.driveIwdOut (iwdAbc 39 .arith .f32 .f32 op rd rs1 rs2))

/-- R156 FMUL. -/
def execFmul (op rd rs1 rs2 : Byte) (s : State) :
    Host.Outcome State Fault Refusal :=
  .next (s.driveIwdOut (iwdAbc 40 .arith .f32 .f32 op rd rs1 rs2))

/-- R157 FDIV. -/
def execFdiv (op rd rs1 rs2 : Byte) (s : State) :
    Host.Outcome State Fault Refusal :=
  .next (s.driveIwdOut (iwdAbc 41 .arith .f32 .f32 op rd rs1 rs2))

/-- R158 FMOD. -/
def execFmod (op rd rs1 rs2 : Byte) (s : State) :
    Host.Outcome State Fault Refusal :=
  .next (s.driveIwdOut (iwdAbc 42 .arith .f32 .f32 op rd rs1 rs2))

/-- R159 FNEG. -/
def execFneg (op r xb xc : Byte) (s : State) :
    Host.Outcome State Fault Refusal :=
  .next (s.driveIwdOut (iwdA 43 .arith .f32 .f32 op r xb xc))

/-- R160 FEQ. -/
def execFeq (op rd rs1 rs2 : Byte) (s : State) :
    Host.Outcome State Fault Refusal :=
  .next (s.driveIwdOut (iwdAbc 44 .arith .f32 .none op rd rs1 rs2))

/-- R161 FNEQ. -/
def execFneq (op rd rs1 rs2 : Byte) (s : State) :
    Host.Outcome State Fault Refusal :=
  .next (s.driveIwdOut (iwdAbc 45 .arith .f32 .none op rd rs1 rs2))

/-- R162 FGT. -/
def execFgt (op rd rs1 rs2 : Byte) (s : State) :
    Host.Outcome State Fault Refusal :=
  .next (s.driveIwdOut (iwdAbc 46 .arith .f32 .none op rd rs1 rs2))

/-- R163 FGE. -/
def execFge (op rd rs1 rs2 : Byte) (s : State) :
    Host.Outcome State Fault Refusal :=
  .next (s.driveIwdOut (iwdAbc 47 .arith .f32 .none op rd rs1 rs2))

/-- R164 FLT. -/
def execFlt (op rd rs1 rs2 : Byte) (s : State) :
    Host.Outcome State Fault Refusal :=
  .next (s.driveIwdOut (iwdAbc 48 .arith .f32 .none op rd rs1 rs2))

/-- R165 FLE. -/
def execFle (op rd rs1 rs2 : Byte) (s : State) :
    Host.Outcome State Fault Refusal :=
  .next (s.driveIwdOut (iwdAbc 49 .arith .f32 .none op rd rs1 rs2))

/-- R166 DADD. -/
def execDadd (op rd rs1 rs2 : Byte) (s : State) :
    Host.Outcome State Fault Refusal :=
  .next (s.driveIwdOut (iwdAbc 50 .arith .f64 .f64 op rd rs1 rs2))

/-- R167 DSUB. -/
def execDsub (op rd rs1 rs2 : Byte) (s : State) :
    Host.Outcome State Fault Refusal :=
  .next (s.driveIwdOut (iwdAbc 51 .arith .f64 .f64 op rd rs1 rs2))

/-- R168 DMUL. -/
def execDmul (op rd rs1 rs2 : Byte) (s : State) :
    Host.Outcome State Fault Refusal :=
  .next (s.driveIwdOut (iwdAbc 52 .arith .f64 .f64 op rd rs1 rs2))

/-- R169 DDIV. -/
def execDdiv (op rd rs1 rs2 : Byte) (s : State) :
    Host.Outcome State Fault Refusal :=
  .next (s.driveIwdOut (iwdAbc 53 .arith .f64 .f64 op rd rs1 rs2))

/-- R170 DMOD. -/
def execDmod (op rd rs1 rs2 : Byte) (s : State) :
    Host.Outcome State Fault Refusal :=
  .next (s.driveIwdOut (iwdAbc 54 .arith .f64 .f64 op rd rs1 rs2))

/-- R171 DNEG. -/
def execDneg (op r xb xc : Byte) (s : State) :
    Host.Outcome State Fault Refusal :=
  .next (s.driveIwdOut (iwdA 55 .arith .f64 .f64 op r xb xc))

/-- R172 DEQ. -/
def execDeq (op rd rs1 rs2 : Byte) (s : State) :
    Host.Outcome State Fault Refusal :=
  .next (s.driveIwdOut (iwdAbc 56 .arith .f64 .none op rd rs1 rs2))

/-- R173 DNEQ. -/
def execDneq (op rd rs1 rs2 : Byte) (s : State) :
    Host.Outcome State Fault Refusal :=
  .next (s.driveIwdOut (iwdAbc 57 .arith .f64 .none op rd rs1 rs2))

/-- R174 DGT. -/
def execDgt (op rd rs1 rs2 : Byte) (s : State) :
    Host.Outcome State Fault Refusal :=
  .next (s.driveIwdOut (iwdAbc 58 .arith .f64 .none op rd rs1 rs2))

/-- R175 DGE. -/
def execDge (op rd rs1 rs2 : Byte) (s : State) :
    Host.Outcome State Fault Refusal :=
  .next (s.driveIwdOut (iwdAbc 59 .arith .f64 .none op rd rs1 rs2))

/-- R176 DLT. -/
def execDlt (op rd rs1 rs2 : Byte) (s : State) :
    Host.Outcome State Fault Refusal :=
  .next (s.driveIwdOut (iwdAbc 60 .arith .f64 .none op rd rs1 rs2))

/-- R177 DLE. -/
def execDle (op rd rs1 rs2 : Byte) (s : State) :
    Host.Outcome State Fault Refusal :=
  .next (s.driveIwdOut (iwdAbc 61 .arith .f64 .none op rd rs1 rs2))

end Sys2Proof.Machine
end

