-- ==== Sys2Proof/Machine/Bitwise.lean ====
section
/-! DEFINITION. The bitwise, shift and logical instructions of 44_bitwise.md: each drives IWD's output ports as its rule's
Decode lines say, and changes nothing else. No flag is written and no condition raised (R23, R252). -/

namespace Sys2Proof.Machine

/-- R180 AND. -/
def execAnd (op rd rs1 rs2 : Byte) (s : State) :
    Host.Outcome State Fault Refusal :=
  .next (s.driveIwdOut (iwdAbc 62 .bitwise .i64 .i64 op rd rs1 rs2))

/-- R181 OR. -/
def execOr (op rd rs1 rs2 : Byte) (s : State) :
    Host.Outcome State Fault Refusal :=
  .next (s.driveIwdOut (iwdAbc 63 .bitwise .i64 .i64 op rd rs1 rs2))

/-- R182 XOR. -/
def execXor (op rd rs1 rs2 : Byte) (s : State) :
    Host.Outcome State Fault Refusal :=
  .next (s.driveIwdOut (iwdAbc 64 .bitwise .i64 .i64 op rd rs1 rs2))

/-- R183 SHL. -/
def execShl (op rd rs1 rs2 : Byte) (s : State) :
    Host.Outcome State Fault Refusal :=
  .next (s.driveIwdOut (iwdAbc 65 .bitwise .i64 .i64 op rd rs1 rs2))

/-- R184 SHR. -/
def execShr (op rd rs1 rs2 : Byte) (s : State) :
    Host.Outcome State Fault Refusal :=
  .next (s.driveIwdOut (iwdAbc 66 .bitwise .i64 .i64 op rd rs1 rs2))

/-- R185 SAR. -/
def execSar (op rd rs1 rs2 : Byte) (s : State) :
    Host.Outcome State Fault Refusal :=
  .next (s.driveIwdOut (iwdAbc 67 .bitwise .i64 .i64 op rd rs1 rs2))

/-- R186 UAND. -/
def execUand (op rd rs1 rs2 : Byte) (s : State) :
    Host.Outcome State Fault Refusal :=
  .next (s.driveIwdOut (iwdAbc 68 .bitwise .u64 .u64 op rd rs1 rs2))

/-- R187 UOR. -/
def execUor (op rd rs1 rs2 : Byte) (s : State) :
    Host.Outcome State Fault Refusal :=
  .next (s.driveIwdOut (iwdAbc 69 .bitwise .u64 .u64 op rd rs1 rs2))

/-- R188 UXOR. -/
def execUxor (op rd rs1 rs2 : Byte) (s : State) :
    Host.Outcome State Fault Refusal :=
  .next (s.driveIwdOut (iwdAbc 70 .bitwise .u64 .u64 op rd rs1 rs2))

/-- R189 USHL. -/
def execUshl (op rd rs1 rs2 : Byte) (s : State) :
    Host.Outcome State Fault Refusal :=
  .next (s.driveIwdOut (iwdAbc 71 .bitwise .u64 .u64 op rd rs1 rs2))

/-- R190 USHR. -/
def execUshr (op rd rs1 rs2 : Byte) (s : State) :
    Host.Outcome State Fault Refusal :=
  .next (s.driveIwdOut (iwdAbc 72 .bitwise .u64 .u64 op rd rs1 rs2))

/-- R191 USAR. -/
def execUsar (op rd rs1 rs2 : Byte) (s : State) :
    Host.Outcome State Fault Refusal :=
  .next (s.driveIwdOut (iwdAbc 73 .bitwise .u64 .u64 op rd rs1 rs2))

/-- R192 LNOT. -/
def execLnot (op r xb xc : Byte) (s : State) :
    Host.Outcome State Fault Refusal :=
  .next (s.driveIwdOut (iwdA 74 .bitwise .i64 .i64 op r xb xc))

/-- R193 BNOT. -/
def execBnot (op r xb xc : Byte) (s : State) :
    Host.Outcome State Fault Refusal :=
  .next (s.driveIwdOut (iwdA 75 .bitwise .i64 .i64 op r xb xc))

/-- R194 ULNOT. -/
def execUlnot (op r xb xc : Byte) (s : State) :
    Host.Outcome State Fault Refusal :=
  .next (s.driveIwdOut (iwdA 76 .bitwise .u64 .u64 op r xb xc))

/-- R195 UBNOT. -/
def execUbnot (op r xb xc : Byte) (s : State) :
    Host.Outcome State Fault Refusal :=
  .next (s.driveIwdOut (iwdA 77 .bitwise .u64 .u64 op r xb xc))

end Sys2Proof.Machine
end

