-- ==== Sys2Proof/Machine/CallStack.lean ====
section
/-! DEFINITION. The call-stack instructions of 42_call_stack.md: each drives IWD's output ports as its rule's
Decode lines say, and changes nothing else. No flag is written and no condition raised (R23, R252). -/

namespace Sys2Proof.Machine

/-- R120 CALL. -/
def execCall (op a b c : Byte) (s : State) :
    Host.Outcome State Fault Refusal :=
  .next (s.driveIwdOut (iwdRaw 11 .callStack .none .none op a b c))

/-- R121 TAILCALL. -/
def execTailcall (op a b c : Byte) (s : State) :
    Host.Outcome State Fault Refusal :=
  .next (s.driveIwdOut (iwdRaw 12 .callStack .none .none op a b c))

/-- R122 RET. -/
def execRet (op a b c : Byte) (s : State) :
    Host.Outcome State Fault Refusal :=
  .next (s.driveIwdOut (iwdRaw 13 .callStack .none .none op a b c))

end Sys2Proof.Machine
end

