-- ==== Sys2Proof/Machine/ControlFlow.lean ====
section
/-! DEFINITION. The control-flow instructions of 40_control_flow.md: each drives IWD's output ports as its rule's
Decode lines say, and changes nothing else. No flag is written and no condition raised (R23, R252). -/

namespace Sys2Proof.Machine

/-- R100 HALT. -/
def execHalt (op a b c : Byte) (s : State) :
    Host.Outcome State Fault Refusal :=
  .next (s.driveIwdOut (iwdRaw 0 .control .none .none op a b c))

/-- R101 PANIC. -/
def execPanic (op a b c : Byte) (s : State) :
    Host.Outcome State Fault Refusal :=
  .next (s.driveIwdOut (iwdRaw 1 .control .none .none op a b c))

/-- R102 JMP. -/
def execJmp (op : Byte) (off : BitVec 24) (s : State) :
    Host.Outcome State Fault Refusal :=
  .next (s.driveIwdOut (iwdOff24 2 .control .none .none op off))

/-- R103 JMPIF. -/
def execJmpif (op rt xb off : Byte) (s : State) :
    Host.Outcome State Fault Refusal :=
  .next (s.driveIwdOut (iwdAoff8 3 .control .none .none op rt xb off))

/-- R104 JMPIFZ. -/
def execJmpifz (op rt xb off : Byte) (s : State) :
    Host.Outcome State Fault Refusal :=
  .next (s.driveIwdOut (iwdAoff8 4 .control .none .none op rt xb off))

end Sys2Proof.Machine
end

