-- ==== Sys2Proof/Machine/Conversions.lean ====
section
/-! DEFINITION. The conversion instructions of 45_conversions.md: each drives IWD's output ports as its rule's
Decode lines say, and changes nothing else. No flag is written and no condition raised (R23, R252). -/

namespace Sys2Proof.Machine

/-- R200 I2D. -/
def execI2D (op a b c : Byte) (s : State) :
    Host.Outcome State Fault Refusal :=
  .next (s.driveIwdOut (iwdRaw 78 .conversion .i64 .f64 op a b c))

/-- R201 I2F. -/
def execI2F (op a b c : Byte) (s : State) :
    Host.Outcome State Fault Refusal :=
  .next (s.driveIwdOut (iwdRaw 79 .conversion .i64 .f32 op a b c))

/-- R202 D2I. -/
def execD2I (op a b c : Byte) (s : State) :
    Host.Outcome State Fault Refusal :=
  .next (s.driveIwdOut (iwdRaw 80 .conversion .f64 .i64 op a b c))

/-- R203 F2I. -/
def execF2I (op a b c : Byte) (s : State) :
    Host.Outcome State Fault Refusal :=
  .next (s.driveIwdOut (iwdRaw 81 .conversion .f32 .i64 op a b c))

/-- R204 I2U. -/
def execI2U (op a b c : Byte) (s : State) :
    Host.Outcome State Fault Refusal :=
  .next (s.driveIwdOut (iwdRaw 82 .conversion .i64 .u64 op a b c))

/-- R205 U2I. -/
def execU2I (op a b c : Byte) (s : State) :
    Host.Outcome State Fault Refusal :=
  .next (s.driveIwdOut (iwdRaw 83 .conversion .u64 .i64 op a b c))

/-- R206 U2D. -/
def execU2D (op a b c : Byte) (s : State) :
    Host.Outcome State Fault Refusal :=
  .next (s.driveIwdOut (iwdRaw 84 .conversion .u64 .f64 op a b c))

/-- R207 U2F. -/
def execU2F (op a b c : Byte) (s : State) :
    Host.Outcome State Fault Refusal :=
  .next (s.driveIwdOut (iwdRaw 85 .conversion .u64 .f32 op a b c))

/-- R208 D2U. -/
def execD2U (op a b c : Byte) (s : State) :
    Host.Outcome State Fault Refusal :=
  .next (s.driveIwdOut (iwdRaw 86 .conversion .f64 .u64 op a b c))

/-- R209 F2U. -/
def execF2U (op a b c : Byte) (s : State) :
    Host.Outcome State Fault Refusal :=
  .next (s.driveIwdOut (iwdRaw 87 .conversion .f32 .u64 op a b c))

end Sys2Proof.Machine
end

