-- ==== Sys2Proof/Machine/Fallback.lean ====
section
/-! DEFINITION. The unknown-opcode fallback of 30_encoding.md rule R87: no failure, the raw fields on
their ports. -/

namespace Sys2Proof.Machine

/-- R87, the unknown-opcode fallback. -/
def execUnknown (op a b c : Byte) (s : State) : Host.Outcome State Fault Refusal :=
  .next (s.driveIwdOut (iwdUnknown op a b c))

end Sys2Proof.Machine
end

