-- ==== Sys2Proof/Machine/RegisterMovement.lean ====
section
/-! DEFINITION. The register-movement instructions of 41_register_movement.md: each drives IWD's output ports as its rule's
Decode lines say, and changes nothing else. No flag is written and no condition raised (R23, R252). -/

namespace Sys2Proof.Machine

/-- R110 COPY. -/
def execCopy (op rd rs xc : Byte) (s : State) :
    Host.Outcome State Fault Refusal :=
  .next (s.driveIwdOut (iwdAb 5 .movement .none .none op rd rs xc))

/-- R111 MOVE. -/
def execMove (op rd rs xc : Byte) (s : State) :
    Host.Outcome State Fault Refusal :=
  .next (s.driveIwdOut (iwdAb 6 .movement .none .none op rd rs xc))

/-- R112 LOADI. -/
def execLoadi (op rd : Byte) (imm : BitVec 16) (s : State) :
    Host.Outcome State Fault Refusal :=
  .next (s.driveIwdOut (iwdAimm16 7 .movement .none .none op rd imm))

/-- R113 LOADC. -/
def execLoadc (op r k xc : Byte) (s : State) :
    Host.Outcome State Fault Refusal :=
  .next (s.driveIwdOut (iwdAidx 8 .movement .none .none op r k xc))

/-- R114 LOADG. -/
def execLoadg (op r k xc : Byte) (s : State) :
    Host.Outcome State Fault Refusal :=
  .next (s.driveIwdOut (iwdAidx 9 .movement .none .none op r k xc))

/-- R115 STOREG. -/
def execStoreg (op r k xc : Byte) (s : State) :
    Host.Outcome State Fault Refusal :=
  .next (s.driveIwdOut (iwdAidx 10 .movement .none .none op r k xc))

end Sys2Proof.Machine
end

