-- ==== Sys2Proof/Machine/Dispatch.lean ====
section
/-! DEFINITION. One arm per constructor of Instr. -/

namespace Sys2Proof.Machine

def exec (i : Instr) (s : State) : Host.Outcome State Fault Refusal :=
  match i with
  -- 40_control_flow.md
  | .halt op a b c => Sys2Proof.Machine.execHalt op a b c s
  | .panic op a b c => Sys2Proof.Machine.execPanic op a b c s
  | .jmp op off => Sys2Proof.Machine.execJmp op off s
  | .jmpif op rt xb off => Sys2Proof.Machine.execJmpif op rt xb off s
  | .jmpifz op rt xb off => Sys2Proof.Machine.execJmpifz op rt xb off s
  -- 41_register_movement.md
  | .copy op rd rs xc => Sys2Proof.Machine.execCopy op rd rs xc s
  | .move op rd rs xc => Sys2Proof.Machine.execMove op rd rs xc s
  | .loadi op rd imm => Sys2Proof.Machine.execLoadi op rd imm s
  | .loadc op r k xc => Sys2Proof.Machine.execLoadc op r k xc s
  | .loadg op r k xc => Sys2Proof.Machine.execLoadg op r k xc s
  | .storeg op r k xc => Sys2Proof.Machine.execStoreg op r k xc s
  -- 42_call_stack.md
  | .call op a b c => Sys2Proof.Machine.execCall op a b c s
  | .tailcall op a b c => Sys2Proof.Machine.execTailcall op a b c s
  | .ret op a b c => Sys2Proof.Machine.execRet op a b c s
  -- 43_arithmetic.md
  | .add op rd rs1 rs2 => Sys2Proof.Machine.execAdd op rd rs1 rs2 s
  | .sub op rd rs1 rs2 => Sys2Proof.Machine.execSub op rd rs1 rs2 s
  | .mul op rd rs1 rs2 => Sys2Proof.Machine.execMul op rd rs1 rs2 s
  | .div op rd rs1 rs2 => Sys2Proof.Machine.execDiv op rd rs1 rs2 s
  | .mod op rd rs1 rs2 => Sys2Proof.Machine.execMod op rd rs1 rs2 s
  | .neg op r xb xc => Sys2Proof.Machine.execNeg op r xb xc s
  | .eq op rd rs1 rs2 => Sys2Proof.Machine.execEq op rd rs1 rs2 s
  | .neq op rd rs1 rs2 => Sys2Proof.Machine.execNeq op rd rs1 rs2 s
  | .gt op rd rs1 rs2 => Sys2Proof.Machine.execGt op rd rs1 rs2 s
  | .ge op rd rs1 rs2 => Sys2Proof.Machine.execGe op rd rs1 rs2 s
  | .lt op rd rs1 rs2 => Sys2Proof.Machine.execLt op rd rs1 rs2 s
  | .le op rd rs1 rs2 => Sys2Proof.Machine.execLe op rd rs1 rs2 s
  | .uadd op rd rs1 rs2 => Sys2Proof.Machine.execUadd op rd rs1 rs2 s
  | .usub op rd rs1 rs2 => Sys2Proof.Machine.execUsub op rd rs1 rs2 s
  | .umul op rd rs1 rs2 => Sys2Proof.Machine.execUmul op rd rs1 rs2 s
  | .udiv op rd rs1 rs2 => Sys2Proof.Machine.execUdiv op rd rs1 rs2 s
  | .umod op rd rs1 rs2 => Sys2Proof.Machine.execUmod op rd rs1 rs2 s
  | .uneg op r xb xc => Sys2Proof.Machine.execUneg op r xb xc s
  | .ueq op rd rs1 rs2 => Sys2Proof.Machine.execUeq op rd rs1 rs2 s
  | .uneq op rd rs1 rs2 => Sys2Proof.Machine.execUneq op rd rs1 rs2 s
  | .ugt op rd rs1 rs2 => Sys2Proof.Machine.execUgt op rd rs1 rs2 s
  | .uge op rd rs1 rs2 => Sys2Proof.Machine.execUge op rd rs1 rs2 s
  | .ult op rd rs1 rs2 => Sys2Proof.Machine.execUlt op rd rs1 rs2 s
  | .ule op rd rs1 rs2 => Sys2Proof.Machine.execUle op rd rs1 rs2 s
  | .fadd op rd rs1 rs2 => Sys2Proof.Machine.execFadd op rd rs1 rs2 s
  | .fsub op rd rs1 rs2 => Sys2Proof.Machine.execFsub op rd rs1 rs2 s
  | .fmul op rd rs1 rs2 => Sys2Proof.Machine.execFmul op rd rs1 rs2 s
  | .fdiv op rd rs1 rs2 => Sys2Proof.Machine.execFdiv op rd rs1 rs2 s
  | .fmod op rd rs1 rs2 => Sys2Proof.Machine.execFmod op rd rs1 rs2 s
  | .fneg op r xb xc => Sys2Proof.Machine.execFneg op r xb xc s
  | .feq op rd rs1 rs2 => Sys2Proof.Machine.execFeq op rd rs1 rs2 s
  | .fneq op rd rs1 rs2 => Sys2Proof.Machine.execFneq op rd rs1 rs2 s
  | .fgt op rd rs1 rs2 => Sys2Proof.Machine.execFgt op rd rs1 rs2 s
  | .fge op rd rs1 rs2 => Sys2Proof.Machine.execFge op rd rs1 rs2 s
  | .flt op rd rs1 rs2 => Sys2Proof.Machine.execFlt op rd rs1 rs2 s
  | .fle op rd rs1 rs2 => Sys2Proof.Machine.execFle op rd rs1 rs2 s
  | .dadd op rd rs1 rs2 => Sys2Proof.Machine.execDadd op rd rs1 rs2 s
  | .dsub op rd rs1 rs2 => Sys2Proof.Machine.execDsub op rd rs1 rs2 s
  | .dmul op rd rs1 rs2 => Sys2Proof.Machine.execDmul op rd rs1 rs2 s
  | .ddiv op rd rs1 rs2 => Sys2Proof.Machine.execDdiv op rd rs1 rs2 s
  | .dmod op rd rs1 rs2 => Sys2Proof.Machine.execDmod op rd rs1 rs2 s
  | .dneg op r xb xc => Sys2Proof.Machine.execDneg op r xb xc s
  | .deq op rd rs1 rs2 => Sys2Proof.Machine.execDeq op rd rs1 rs2 s
  | .dneq op rd rs1 rs2 => Sys2Proof.Machine.execDneq op rd rs1 rs2 s
  | .dgt op rd rs1 rs2 => Sys2Proof.Machine.execDgt op rd rs1 rs2 s
  | .dge op rd rs1 rs2 => Sys2Proof.Machine.execDge op rd rs1 rs2 s
  | .dlt op rd rs1 rs2 => Sys2Proof.Machine.execDlt op rd rs1 rs2 s
  | .dle op rd rs1 rs2 => Sys2Proof.Machine.execDle op rd rs1 rs2 s
  -- 44_bitwise.md
  | .and op rd rs1 rs2 => Sys2Proof.Machine.execAnd op rd rs1 rs2 s
  | .or op rd rs1 rs2 => Sys2Proof.Machine.execOr op rd rs1 rs2 s
  | .xor op rd rs1 rs2 => Sys2Proof.Machine.execXor op rd rs1 rs2 s
  | .shl op rd rs1 rs2 => Sys2Proof.Machine.execShl op rd rs1 rs2 s
  | .shr op rd rs1 rs2 => Sys2Proof.Machine.execShr op rd rs1 rs2 s
  | .sar op rd rs1 rs2 => Sys2Proof.Machine.execSar op rd rs1 rs2 s
  | .uand op rd rs1 rs2 => Sys2Proof.Machine.execUand op rd rs1 rs2 s
  | .uor op rd rs1 rs2 => Sys2Proof.Machine.execUor op rd rs1 rs2 s
  | .uxor op rd rs1 rs2 => Sys2Proof.Machine.execUxor op rd rs1 rs2 s
  | .ushl op rd rs1 rs2 => Sys2Proof.Machine.execUshl op rd rs1 rs2 s
  | .ushr op rd rs1 rs2 => Sys2Proof.Machine.execUshr op rd rs1 rs2 s
  | .usar op rd rs1 rs2 => Sys2Proof.Machine.execUsar op rd rs1 rs2 s
  | .lnot op r xb xc => Sys2Proof.Machine.execLnot op r xb xc s
  | .bnot op r xb xc => Sys2Proof.Machine.execBnot op r xb xc s
  | .ulnot op r xb xc => Sys2Proof.Machine.execUlnot op r xb xc s
  | .ubnot op r xb xc => Sys2Proof.Machine.execUbnot op r xb xc s
  -- 45_conversions.md
  | .i2d op a b c => Sys2Proof.Machine.execI2D op a b c s
  | .i2f op a b c => Sys2Proof.Machine.execI2F op a b c s
  | .d2i op a b c => Sys2Proof.Machine.execD2I op a b c s
  | .f2i op a b c => Sys2Proof.Machine.execF2I op a b c s
  | .i2u op a b c => Sys2Proof.Machine.execI2U op a b c s
  | .u2i op a b c => Sys2Proof.Machine.execU2I op a b c s
  | .u2d op a b c => Sys2Proof.Machine.execU2D op a b c s
  | .u2f op a b c => Sys2Proof.Machine.execU2F op a b c s
  | .d2u op a b c => Sys2Proof.Machine.execD2U op a b c s
  | .f2u op a b c => Sys2Proof.Machine.execF2U op a b c s
  -- 30_encoding.md rule R87
  | .unknown op a b c => Sys2Proof.Machine.execUnknown op a b c s

end Sys2Proof.Machine
end

