-- ==== Sys2Proof/Machine/Reader.lean ====
section
/-! DEFINITION. The container front end step by step (20_memory.md rule R48), and the other operations
the outside asks for, one request a step. -/

namespace Sys2Proof.Machine

/-- Present a word to IWD, which decodes it and runs the meaning of the instruction found (R24, R83). -/
def runWord (iw : Word) (ver : Version) (s : State) : Host.Outcome State Fault Refusal :=
  exec (decodeWord s.params ver iw) (s.driveIwdIn iw ver)

/-- Read word i of the stream (R45, R48): decode it and enter it, or raise `TruncatedStream` with the
bytes that are left (R254). -/
def readWordStep (r : Reading) (s : State) : Host.Outcome State Fault Refusal :=
  match r.image.readBytes (wordOffset r.words.length) 4 with
  | [b0, b1, b2, b3] =>
    match runWord (wordOfBytes s.params.wordOrder b0 b1 b2 b3) r.header.ver s with
    | .next t => .next (t.recordWord r)
    | .fault f => .fault f
    | .refused q => .refused q
  | bytes => .next (s.raise (.truncatedStream r.words.length bytes.length))

/-- Read slot j of a pool (R46, R48): decode it and enter it, or raise `MalformedSlot` (R255). -/
def readSlotStep (pool : Pool) (r : Reading) (s : State) : State :=
  let j := (r.entries pool).length
  let t := s.driveSvd (r.image.readBytes (slotOffset r.header pool j) 9) r.header.ver
  match t.svdOut with
  | .malformed len => t.raise (.malformedSlot len (some (pool, j)))
  | .decoded o => t.recordSlot r pool o

/-- One step of a reading: the next word, else the next constant, else the next global, else the
listing (R48). -/
def readingStep (r : Reading) (s : State) : Host.Outcome State Fault Refusal :=
  if r.words.length < r.header.n.toNat then readWordStep r s
  else if r.consts.length < r.header.k.toNat then .next (readSlotStep .const r s)
  else if r.globals.length < r.header.m.toNat then .next (readSlotStep .global r s)
  else .next (s.complete (.listing r.listing))

/-- `WriteContainer` (R52): the header with the counts given, then the content given, unchecked. -/
def writeContainer (p : Params) (ver : Version) (flags : BitVec 16) (n k m : BitVec 32)
    (words : List Word) (consts globals : List Slot) : List Byte :=
  [p.magic.b0, p.magic.b1, p.magic.b2, p.magic.b3] ++ leBytes 2 ver.toNat ++ leBytes 2 flags.toNat ++
    leBytes 4 n.toNat ++ leBytes 4 k.toNat ++ leBytes 4 m.toNat ++
    words.flatMap (wordBytes p.wordOrder) ++ consts.flatMap slotBytes ++ globals.flatMap slotBytes

/-- Give IWE its inputs: the packed word, or the refusal of R72. -/
def packStep (i : IweIn) (s : State) : Host.Outcome State Fault Refusal :=
  match iwe i with
  | some iw => .next ((s.driveIwe i iw).complete (.packedWord iw))
  | none => .refused (.opcodeOutOfRange i.op)

/-- Give SVE a value: the slot, or the refusal of R12. -/
def packSlotStep (ver : Version) (v : Value) (s : State) : Host.Outcome State Fault Refusal :=
  match sve ver v with
  | some slot => .next ((s.driveSve ver v slot).complete (.packedSlot slot))
  | none => .refused (.valueOutOfRange v)

/-- Begin one request (R11, R258, R262); a `ReadContainer` goes on over the next steps. -/
def serve (q : Request) (s : State) : Host.Outcome State Fault Refusal :=
  match q with
  | .readImage img =>
    match readHeader s.params img with
    | .error c => .next (s.raise c)
    | .ok h => .next (s.startReading img h)
  | .writeImage ver flags n k m words consts globals =>
    .next (s.complete
      (.image (Image.ofBytes (writeContainer s.params ver flags n k m words consts globals))))
  | .decodeWord iw ver =>
    match runWord iw ver s with
    | .next t => .next (t.complete (.word t.iwdOut))
    | .fault f => .fault f
    | .refused r => .refused r
  | .decodeSlot bytes ver =>
    let t := s.driveSvd bytes ver
    match t.svdOut with
    | .malformed len => .next (t.raise (.malformedSlot len none))
    | .decoded o => .next (t.complete (.slot o))
  | .packWord op a b c => packStep ⟨op, a, b, c⟩ s
  | .packLoadi ver dst v =>
    match loadiFields s.params ver dst v with
    | some i => packStep i s
    | none => .refused (.noOpcode .loadi)
  | .packJmp ver v =>
    match jmpFields s.params ver v with
    | some i => packStep i s
    | none => .refused (.noOpcode .jmp)
  | .packSlot ver v => packSlotStep ver v s
  | .packHostFloat ver x => packSlotStep ver (.float (Config.f32FromHost x)) s
  | .cancel => .next { s with requests := [] }

/-- One step with no reading under way: the next request, or nothing to do (log 6). -/
def idleStep (s : State) : Host.Outcome State Fault Refusal :=
  match s.requests with
  | [] => .next s
  | q :: qs => serve q { s with requests := qs }

end Sys2Proof.Machine
end

