-- ==== Sys2Proof/Machine/Text.lean ====
section
/-! DEFINITION. The listing spelling (30_encoding.md rule R89, 46_value_slot.md rule R235) and the display
groups (30_encoding.md rule R84). A spelling is a list of characters, written out as one. -/

namespace Sys2Proof.Machine

/-- One digit, upper case above 9. -/
def digitChar (d : Nat) : Char := if d < 10 then Char.ofNat (48 + d) else Char.ofNat (55 + d)

/-- The digits of `n` in base `base`, in front of `acc`, at most `fuel` of them. -/
def digitsOnto (base : Nat) : Nat → Nat → List Char → List Char
  | 0, _, acc => acc
  | fuel + 1, n, acc =>
    if n < base then digitChar n :: acc
    else digitsOnto base fuel (n / base) (digitChar (n % base) :: acc)

/-- A number in decimal (R89). -/
def decimal (n : Nat) : List Char := digitsOnto 10 (n.log2 + 1) n []

/-- A signed number in decimal, negative numbers with a leading minus (R89). -/
def decimalInt (v : Int) : List Char :=
  if v < 0 then '-' :: decimal v.natAbs else decimal v.natAbs

/-- A number as exactly `n` hexadecimal digits (R235). -/
def hexDigits : Nat → Nat → List Char
  | 0, _ => []
  | n + 1, v => hexDigits n (v / 16) ++ [digitChar (v % 16)]

/-- `rn` (R89). -/
def regText (r : Byte) : List Char := 'r' :: decimal r.toNat

/-- ` a=A b=B c=C` (R89). -/
def rawText (a b c : Byte) : List Char :=
  [' ', 'a', '='] ++ decimal a.toNat ++ [' ', 'b', '='] ++ decimal b.toNat ++ [' ', 'c', '='] ++
    decimal c.toNat

/-- The separator between operands (R89). -/
def commaText : List Char := [',', ' ']

/-- The operand part of a spelling, by form (R89). Unused fields are not printed. -/
def rolesText : Roles → List Char
  | .raw a b c => rawText a b c
  | .abc rd rs1 rs2 => ' ' :: regText rd ++ commaText ++ regText rs1 ++ commaText ++ regText rs2
  | .a r => ' ' :: regText r
  | .ab rd rs => ' ' :: regText rd ++ commaText ++ regText rs
  | .aimm16 rd imm => ' ' :: regText rd ++ commaText ++ decimalInt imm
  | .off24 off => ' ' :: decimalInt off
  | .aoff8 rt off => ' ' :: regText rt ++ commaText ++ decimal off
  | .aidx r k => ' ' :: regText r ++ commaText ++ decimal k.toNat

/-- `UNKNOWN(OP)` (R89). -/
def unknownText (op : Byte) : List Char :=
  ['U', 'N', 'K', 'N', 'O', 'W', 'N', '('] ++ decimal op.toNat ++ [')']

/-- The spelling of a decoded word (R89). -/
def iwdText (o : IwdOut) : List Char :=
  (if o.known then
    match mnOfId o.mn with
    | some m => mnName m
    | none => unknownText o.op
  else unknownText o.op) ++ rolesText o.roles

/-- `i: ` and the spelling (R89). -/
def wordLine (e : WordEntry) : List Char := decimal e.index ++ [':', ' '] ++ iwdText e.out

/-- `0x` and hexadecimal digits (R235). -/
def hexText (n v : Nat) : List Char := ['0', 'x'] ++ hexDigits n v

/-- Bytes in file order, each two digits, a space before each (R235). -/
def byteTexts (bs : List Byte) : List Char := bs.flatMap fun b => ' ' :: hexDigits 2 b.toNat

/-- The spelling of a value (R235): `NUL`, `BOOL true`, `U64 n`, `I64 n`, `FLOAT 0x..`, `DOUBLE 0x..`,
`OBJ 0x..`, `CALLABLE entry=E argc=A regc=R`, `UNKNOWN_TAG(T) hh ..`. -/
def valueText : Value → List Char
  | .nul => ['N', 'U', 'L']
  | .bool true => ['B', 'O', 'O', 'L', ' ', 't', 'r', 'u', 'e']
  | .bool false => ['B', 'O', 'O', 'L', ' ', 'f', 'a', 'l', 's', 'e']
  | .u64 n => ['U', '6', '4', ' '] ++ decimalInt n
  | .i64 n => ['I', '6', '4', ' '] ++ decimalInt n
  | .float f => ['F', 'L', 'O', 'A', 'T', ' '] ++ hexText 8 f.toNat
  | .double d => ['D', 'O', 'U', 'B', 'L', 'E', ' '] ++ hexText 16 d.toNat
  | .obj raw => ['O', 'B', 'J', ' '] ++ hexText 16 raw.toNat
  | .callable entry argc regc =>
    ['C', 'A', 'L', 'L', 'A', 'B', 'L', 'E', ' ', 'e', 'n', 't', 'r', 'y', '='] ++ decimal entry ++
      [' ', 'a', 'r', 'g', 'c', '='] ++ decimal argc ++ [' ', 'r', 'e', 'g', 'c', '='] ++
      decimal regc
  | .unknown tag payload =>
    ['U', 'N', 'K', 'N', 'O', 'W', 'N', '_', 'T', 'A', 'G', '('] ++ decimal tag.toNat ++ [')'] ++
      byteTexts (leBytes 8 payload.toNat)

/-- `const j: ` or `global j: ` and the spelling (R235). -/
def slotLine (e : SlotEntry) : List Char :=
  (match e.pool with
    | .const => ['c', 'o', 'n', 's', 't', ' ']
    | .global => ['g', 'l', 'o', 'b', 'a', 'l', ' ']) ++
    decimal e.index ++ [':', ' '] ++ valueText e.out.value

/-- The lines of a listing after the header summary: instructions, constants, globals (R49). -/
def listingLines (l : Listing) : List (List Char) :=
  l.words.map wordLine ++ l.consts.map slotLine ++ l.globals.map slotLine

/-- The display groups R84 recovers from form and category. -/
inductive DisplayGroup where
  | controlFlow | loadStore | binaryTypedArithmetic | unary | conversion | rawDisplay
  deriving DecidableEq, Repr

/-- The display group of a form and a category (R84); the fallback displays raw (R82, R87). -/
def displayGroup (f : Form) (c : Category) : DisplayGroup :=
  match f with
  | .off24 | .aoff8 => .controlFlow
  | .ab | .aimm16 | .aidx => .loadStore
  | .abc => .binaryTypedArithmetic
  | .a => .unary
  | .raw =>
    match c with
    | .control | .callStack => .controlFlow
    | .conversion => .conversion
    | .movement | .arith | .bitwise | .unknown => .rawDisplay

end Sys2Proof.Machine
end

