-- ==== Sys2Proof/Machine/Step.lean ====
section
/-! DEFINITION. The step, and where it fetches its next instruction. -/

namespace Sys2Proof.Machine

/-- One step: the reading under way goes on (R48), else the next request begins. -/
def step (s : State) : Host.Outcome State Fault Refusal :=
  match s.reading with
  | some r => readingStep r s
  | none => idleStep s

/-- The state with the word whose bits are `w` (those above `nbits` zero) stored where the next step
fetches an instruction. -/
def State.withFetchWord (s : State) (nbits w : Nat) : State :=
  s.placeWord (BitVec.ofNat 32 (w % 2 ^ nbits))

end Sys2Proof.Machine
end

