-- ==== Sys2Proof/Safety.lean ====
section
/-! DEFINITION. The terms claims use: what a parameter set must satisfy, what an instruction's rule says
as one proposition per operand form, and the invariants of a run. -/

namespace Sys2Proof.Machine

/-- What R82 requires of the registry for every admitted version: HALT at 0, nothing at 250, and at most
one byte for each mnemonic. -/
def Admissible (p : Params) : Prop :=
  ∀ ver, admits p ver = true →
    opReg p ver 0 = some .halt ∧ opReg p ver 250 = none ∧
      ∀ op op' m, opReg p ver op = some m → opReg p ver op' = some m → op = op'

/-- What an instruction's rule says of the word `w` whose opcode byte the registry maps to `m`: the word
decodes to `i`; `i` completes in every state and changes nothing but IWD's output ports, which become
`out`; and `out` is spelled `text`. -/
def WordMeans (m : Mnemonic) (w : Word) (i : Instr) (out : IwdOut) (text : List Char) : Prop :=
  (∀ p ver, opReg p ver (opField w) = some m → decodeWord p ver w = i) ∧
    (∀ s : State, exec i s = .next { s with iwdOut := out }) ∧ iwdText out = text

/-- The rule of a mnemonic of form RAW: all three fields are output raw and given no role. -/
def RawMeaning (m : Mnemonic) (c : Byte → Byte → Byte → Byte → Instr) (mn : BitVec 7)
    (cat ty ty2 : BitVec 3) (name : String) : Prop :=
  ∀ op a b c', WordMeans m (packBytes op a b c') (c op a b c')
    ⟨op, a, b, c', true, mn, 0, cat, ty, ty2, 0, .raw a b c'⟩
    (name.toList ++ " a=".toList ++ decimal a.toNat ++ " b=".toList ++ decimal b.toNat ++
      " c=".toList ++ decimal c'.toNat)

/-- The rule of a mnemonic of form ABC: `rd <- fa; rs1 <- fb; rs2 <- fc`. -/
def AbcMeaning (m : Mnemonic) (c : Byte → Byte → Byte → Byte → Instr) (mn : BitVec 7)
    (cat ty ty2 : BitVec 3) (name : String) : Prop :=
  ∀ op rd rs1 rs2, WordMeans m (packBytes op rd rs1 rs2) (c op rd rs1 rs2)
    ⟨op, rd, rs1, rs2, true, mn, 1, cat, ty, ty2, 0, .abc rd rs1 rs2⟩
    (name.toList ++ " r".toList ++ decimal rd.toNat ++ ", r".toList ++ decimal rs1.toNat ++
      ", r".toList ++ decimal rs2.toNat)

/-- The rule of a mnemonic of form A: `r <- fa`, b and c unused. -/
def UnaryMeaning (m : Mnemonic) (c : Byte → Byte → Byte → Byte → Instr) (mn : BitVec 7)
    (cat ty ty2 : BitVec 3) (name : String) : Prop :=
  ∀ op r xb xc, WordMeans m (packBytes op r xb xc) (c op r xb xc)
    ⟨op, r, xb, xc, true, mn, 2, cat, ty, ty2, 0, .a r⟩
    (name.toList ++ " r".toList ++ decimal r.toNat)

/-- The rule of a mnemonic of form AB: `rd <- fa; rs <- fb`, c unused. -/
def AbMeaning (m : Mnemonic) (c : Byte → Byte → Byte → Byte → Instr) (mn : BitVec 7)
    (cat ty ty2 : BitVec 3) (name : String) : Prop :=
  ∀ op rd rs xc, WordMeans m (packBytes op rd rs xc) (c op rd rs xc)
    ⟨op, rd, rs, xc, true, mn, 3, cat, ty, ty2, 0, .ab rd rs⟩
    (name.toList ++ " r".toList ++ decimal rd.toNat ++ ", r".toList ++ decimal rs.toNat)

/-- The rule of a mnemonic of form AOFF8: `rt <- fa; simm <- zext_32(fc)`, b unused. -/
def Aoff8Meaning (m : Mnemonic) (c : Byte → Byte → Byte → Byte → Instr) (mn : BitVec 7)
    (cat ty ty2 : BitVec 3) (name : String) : Prop :=
  ∀ op rt xb off, WordMeans m (packBytes op rt xb off) (c op rt xb off)
    ⟨op, rt, xb, off, true, mn, 6, cat, ty, ty2, BitVec.ofNat 32 off.toNat, .aoff8 rt off.toNat⟩
    (name.toList ++ " r".toList ++ decimal rt.toNat ++ ", ".toList ++ decimal off.toNat)

/-- The rule of a mnemonic of form AIDX: `r <- fa; k <- fb`, c unused. -/
def AidxMeaning (m : Mnemonic) (c : Byte → Byte → Byte → Byte → Instr) (mn : BitVec 7)
    (cat ty ty2 : BitVec 3) (name : String) : Prop :=
  ∀ op r k xc, WordMeans m (packBytes op r k xc) (c op r k xc)
    ⟨op, r, k, xc, true, mn, 7, cat, ty, ty2, 0, .aidx r k⟩
    (name.toList ++ " r".toList ++ decimal r.toNat ++ ", ".toList ++ decimal k.toNat)

/-- The rule of LOADI (form AIMM16): `simm` is the integer `to_signed_16({fb, fc})`, in
-32768..32767. -/
def LoadiMeaning : Prop :=
  ∀ op rd b c, ∃ imm : Int,
    imm = (if b.msb then ((b ++ c).toNat : Int) - 2 ^ 16 else (b ++ c).toNat) ∧
    -32768 ≤ imm ∧ imm ≤ 32767 ∧
    WordMeans .loadi (packBytes op rd b c) (.loadi op rd (b ++ c))
      ⟨op, rd, b, c, true, 7, 4, 1, 0, 0, BitVec.ofInt 32 imm, .aimm16 rd imm⟩
      ("LOADI".toList ++ " r".toList ++ decimal rd.toNat ++ ", ".toList ++ decimalInt imm)

/-- The rule of JMP (form OFF24): `simm` is the integer `to_signed_24({fa, fb, fc})`, in
-8388608..8388607. -/
def JmpMeaning : Prop :=
  ∀ op a b c, ∃ off : Int,
    off = (if a.msb then ((a ++ b ++ c).toNat : Int) - 2 ^ 24 else (a ++ b ++ c).toNat) ∧
    -8388608 ≤ off ∧ off ≤ 8388607 ∧
    WordMeans .jmp (packBytes op a b c) (.jmp op (a ++ b ++ c))
      ⟨op, a, b, c, true, 2, 5, 0, 0, 0, BitVec.ofInt 32 off, .off24 off⟩
      ("JMP".toList ++ " ".toList ++ decimalInt off)

/-- The digits of R235's patterns, in the order of their values (log 20). -/
def hexAlphabet : List Char :=
  ['0', '1', '2', '3', '4', '5', '6', '7', '8', '9', 'A', 'B', 'C', 'D', 'E', 'F']

/-- The number a string of digits spells in base 16, where each character is a digit. -/
def hexValue : List Char → Option Nat
  | [] => some 0
  | ch :: rest =>
    match hexAlphabet.idxOf? ch, hexValue rest with
    | some d, some v => some (d * 16 ^ rest.length + v)
    | _, _ => none

/-- `ds` is exactly `width` digits that spell `v` in base 16 (R235). -/
def IsHex (width v : Nat) (ds : List Char) : Prop := ds.length = width ∧ hexValue ds = some v

/-- The image a request carries is in canonical form. -/
def Request.imageWf : Request → Bool
  | .readImage img => img.wf
  | .writeImage .. | .decodeWord .. | .decodeSlot .. | .packWord .. | .packLoadi .. | .packJmp ..
  | .packSlot .. | .packHostFloat .. | .cancel => true

/-- The image a report carries is in canonical form. -/
def Report.imageWf : Report → Bool
  | .image img => img.wf
  | .listing .. | .raised .. | .word .. | .slot .. | .packedWord .. | .packedSlot .. => true

/-- Every image the state holds is in canonical form: those waiting to be read, the one being read, those
written. -/
def ImagesCanonical (s : State) : Prop :=
  (∀ q ∈ s.requests, q.imageWf = true) ∧ (∀ r, s.reading = some r → r.image.wf = true) ∧
    ∀ o ∈ s.reports, o.imageWf = true

/-- The outputs of each unit are the unit's function of its inputs and the parameters (R20). -/
def PortsCombinational (s : State) : Prop :=
  s.iwdOut = iwd s.params s.iwdIn.ver s.iwdIn.iw ∧ s.svdOut = svd s.svdIn.ver s.svdIn.bytes ∧
    iwe s.iweIn = some s.iweOut ∧ sve s.sveIn.ver s.sveIn.value = some s.sveOut

/-- The sections are read in order, none past its count (R48). -/
def ReadingInOrder (r : Reading) : Prop :=
  r.words.length ≤ r.header.n.toNat ∧ r.consts.length ≤ r.header.k.toNat ∧
    r.globals.length ≤ r.header.m.toNat ∧ (r.consts ≠ [] → r.words.length = r.header.n.toNat) ∧
    (r.globals ≠ [] →
      r.words.length = r.header.n.toNat ∧ r.consts.length = r.header.k.toNat)

/-- The next thing a reading takes is a slot of the pool (R48): the sections before it are done. -/
def Reading.takesSlot (r : Reading) : Pool → Prop
  | .const => r.header.n.toNat ≤ r.words.length ∧ r.consts.length < r.header.k.toNat
  | .global => r.header.n.toNat ≤ r.words.length ∧ r.header.k.toNat ≤ r.consts.length ∧
      r.globals.length < r.header.m.toNat

/-- The header is the image's, and each entry made so far is what IWD or SVD gives for the bytes at its
place in the image (R42 to R48). -/
def ReadingFaithful (p : Params) (r : Reading) : Prop :=
  readHeader p r.image = .ok r.header ∧
    (∀ i e, r.words[i]? = some e → e.index = i ∧ ∃ b0 b1 b2 b3,
      r.image.readBytes (wordOffset i) 4 = [b0, b1, b2, b3] ∧
        e.out = iwd p r.header.ver (wordOfBytes p.wordOrder b0 b1 b2 b3)) ∧
    ∀ pool j e, (r.entries pool)[j]? = some e → e.pool = pool ∧ e.index = j ∧
      svd r.header.ver (r.image.readBytes (slotOffset r.header pool j) 9) = .decoded e.out

/-- The reading under way, if any, is in order and faithful to its image. -/
def ReadingSound (s : State) : Prop :=
  ∀ r, s.reading = some r → ReadingInOrder r ∧ ReadingFaithful s.params r

/-- The state with another value for the parameter that only a consumer of the block's outputs reads:
`JMP_BASE` (R6, R102). -/
def State.withJmpBase (s : State) (base : JmpBase) : State :=
  { s with params := { s.params with jmpBase := base } }

/-- An outcome with a function applied to its next state. -/
def mapNext (f : State → State) :
    Host.Outcome State Fault Refusal → Host.Outcome State Fault Refusal
  | .next t => .next (f t)
  | .fault e => .fault e
  | .refused q => .refused q

end Sys2Proof.Machine
end

