-- ==== Sys2Proof/Certificates/Slice0/Obligations.lean ====
section
/-! DEFINITION. The statements for the provers. Each docstring names the rule of spec/ a statement
formalises. -/

open Sys2Proof Sys2Proof.Machine

/-- R100 to R104: HALT, PANIC, JMP, JMPIF, JMPIFZ. What each rule gives for encoding, Decode lines, flags (none), conditions (none) and spelling. -/
def Obligations.ControlFlowDecodesAsRuled : Prop :=
  RawMeaning .halt .halt 0 0 0 0 "HALT" ∧
    RawMeaning .panic .panic 1 0 0 0 "PANIC" ∧
    JmpMeaning ∧
    Aoff8Meaning .jmpif .jmpif 3 0 0 0 "JMPIF" ∧
    Aoff8Meaning .jmpifz .jmpifz 4 0 0 0 "JMPIFZ" ∧
    ∀ p ver a b c, Admissible p → admits p ver = true →
      decodeWord p ver (packBytes 0 a b c) = .halt 0 a b c

/-- R110 to R115: COPY, MOVE, LOADI, LOADC, LOADG, STOREG. What each rule gives for encoding, Decode lines, flags (none), conditions (none) and spelling. -/
def Obligations.MovementDecodesAsRuled : Prop :=
  AbMeaning .copy .copy 5 1 0 0 "COPY" ∧
    AbMeaning .move .move 6 1 0 0 "MOVE" ∧
    LoadiMeaning ∧
    AidxMeaning .loadc .loadc 8 1 0 0 "LOADC" ∧
    AidxMeaning .loadg .loadg 9 1 0 0 "LOADG" ∧
    AidxMeaning .storeg .storeg 10 1 0 0 "STOREG"

/-- R120 to R122: CALL, TAILCALL, RET. What each rule gives for encoding, Decode lines, flags (none), conditions (none) and spelling. -/
def Obligations.CallStackDecodesAsRuled : Prop :=
  RawMeaning .call .call 11 2 0 0 "CALL" ∧
    RawMeaning .tailcall .tailcall 12 2 0 0 "TAILCALL" ∧
    RawMeaning .ret .ret 13 2 0 0 "RET"

/-- R130 to R141: ADD, SUB, MUL, DIV, MOD, NEG, EQ, NEQ, GT, GE, LT, LE. What each rule gives for encoding, Decode lines, flags (none), conditions (none) and spelling. -/
def Obligations.SignedArithmeticDecodesAsRuled : Prop :=
  AbcMeaning .add .add 14 3 1 1 "ADD" ∧
    AbcMeaning .sub .sub 15 3 1 1 "SUB" ∧
    AbcMeaning .mul .mul 16 3 1 1 "MUL" ∧
    AbcMeaning .div .div 17 3 1 1 "DIV" ∧
    AbcMeaning .mod .mod 18 3 1 1 "MOD" ∧
    UnaryMeaning .neg .neg 19 3 1 1 "NEG" ∧
    AbcMeaning .eq .eq 20 3 1 0 "EQ" ∧
    AbcMeaning .neq .neq 21 3 1 0 "NEQ" ∧
    AbcMeaning .gt .gt 22 3 1 0 "GT" ∧
    AbcMeaning .ge .ge 23 3 1 0 "GE" ∧
    AbcMeaning .lt .lt 24 3 1 0 "LT" ∧
    AbcMeaning .le .le 25 3 1 0 "LE"

/-- R142 to R153: UADD, USUB, UMUL, UDIV, UMOD, UNEG, UEQ, UNEQ, UGT, UGE, ULT, ULE. What each rule gives for encoding, Decode lines, flags (none), conditions (none) and spelling. -/
def Obligations.UnsignedArithmeticDecodesAsRuled : Prop :=
  AbcMeaning .uadd .uadd 26 3 2 2 "UADD" ∧
    AbcMeaning .usub .usub 27 3 2 2 "USUB" ∧
    AbcMeaning .umul .umul 28 3 2 2 "UMUL" ∧
    AbcMeaning .udiv .udiv 29 3 2 2 "UDIV" ∧
    AbcMeaning .umod .umod 30 3 2 2 "UMOD" ∧
    UnaryMeaning .uneg .uneg 31 3 2 2 "UNEG" ∧
    AbcMeaning .ueq .ueq 32 3 2 0 "UEQ" ∧
    AbcMeaning .uneq .uneq 33 3 2 0 "UNEQ" ∧
    AbcMeaning .ugt .ugt 34 3 2 0 "UGT" ∧
    AbcMeaning .uge .uge 35 3 2 0 "UGE" ∧
    AbcMeaning .ult .ult 36 3 2 0 "ULT" ∧
    AbcMeaning .ule .ule 37 3 2 0 "ULE"

/-- R154 to R165: FADD, FSUB, FMUL, FDIV, FMOD, FNEG, FEQ, FNEQ, FGT, FGE, FLT, FLE. What each rule gives for encoding, Decode lines, flags (none), conditions (none) and spelling. -/
def Obligations.FloatArithmeticDecodesAsRuled : Prop :=
  AbcMeaning .fadd .fadd 38 3 3 3 "FADD" ∧
    AbcMeaning .fsub .fsub 39 3 3 3 "FSUB" ∧
    AbcMeaning .fmul .fmul 40 3 3 3 "FMUL" ∧
    AbcMeaning .fdiv .fdiv 41 3 3 3 "FDIV" ∧
    AbcMeaning .fmod .fmod 42 3 3 3 "FMOD" ∧
    UnaryMeaning .fneg .fneg 43 3 3 3 "FNEG" ∧
    AbcMeaning .feq .feq 44 3 3 0 "FEQ" ∧
    AbcMeaning .fneq .fneq 45 3 3 0 "FNEQ" ∧
    AbcMeaning .fgt .fgt 46 3 3 0 "FGT" ∧
    AbcMeaning .fge .fge 47 3 3 0 "FGE" ∧
    AbcMeaning .flt .flt 48 3 3 0 "FLT" ∧
    AbcMeaning .fle .fle 49 3 3 0 "FLE"

/-- R166 to R177: DADD, DSUB, DMUL, DDIV, DMOD, DNEG, DEQ, DNEQ, DGT, DGE, DLT, DLE. What each rule gives for encoding, Decode lines, flags (none), conditions (none) and spelling. -/
def Obligations.DoubleArithmeticDecodesAsRuled : Prop :=
  AbcMeaning .dadd .dadd 50 3 4 4 "DADD" ∧
    AbcMeaning .dsub .dsub 51 3 4 4 "DSUB" ∧
    AbcMeaning .dmul .dmul 52 3 4 4 "DMUL" ∧
    AbcMeaning .ddiv .ddiv 53 3 4 4 "DDIV" ∧
    AbcMeaning .dmod .dmod 54 3 4 4 "DMOD" ∧
    UnaryMeaning .dneg .dneg 55 3 4 4 "DNEG" ∧
    AbcMeaning .deq .deq 56 3 4 0 "DEQ" ∧
    AbcMeaning .dneq .dneq 57 3 4 0 "DNEQ" ∧
    AbcMeaning .dgt .dgt 58 3 4 0 "DGT" ∧
    AbcMeaning .dge .dge 59 3 4 0 "DGE" ∧
    AbcMeaning .dlt .dlt 60 3 4 0 "DLT" ∧
    AbcMeaning .dle .dle 61 3 4 0 "DLE"

/-- R180 to R191: AND, OR, XOR, SHL, SHR, SAR, UAND, UOR, UXOR, USHL, USHR, USAR. What each rule gives for encoding, Decode lines, flags (none), conditions (none) and spelling. -/
def Obligations.BitwiseBinaryDecodesAsRuled : Prop :=
  AbcMeaning .and .and 62 4 1 1 "AND" ∧
    AbcMeaning .or .or 63 4 1 1 "OR" ∧
    AbcMeaning .xor .xor 64 4 1 1 "XOR" ∧
    AbcMeaning .shl .shl 65 4 1 1 "SHL" ∧
    AbcMeaning .shr .shr 66 4 1 1 "SHR" ∧
    AbcMeaning .sar .sar 67 4 1 1 "SAR" ∧
    AbcMeaning .uand .uand 68 4 2 2 "UAND" ∧
    AbcMeaning .uor .uor 69 4 2 2 "UOR" ∧
    AbcMeaning .uxor .uxor 70 4 2 2 "UXOR" ∧
    AbcMeaning .ushl .ushl 71 4 2 2 "USHL" ∧
    AbcMeaning .ushr .ushr 72 4 2 2 "USHR" ∧
    AbcMeaning .usar .usar 73 4 2 2 "USAR"

/-- R192 to R195: LNOT, BNOT, ULNOT, UBNOT. What each rule gives for encoding, Decode lines, flags (none), conditions (none) and spelling. -/
def Obligations.BitwiseUnaryDecodesAsRuled : Prop :=
  UnaryMeaning .lnot .lnot 74 4 1 1 "LNOT" ∧
    UnaryMeaning .bnot .bnot 75 4 1 1 "BNOT" ∧
    UnaryMeaning .ulnot .ulnot 76 4 2 2 "ULNOT" ∧
    UnaryMeaning .ubnot .ubnot 77 4 2 2 "UBNOT"

/-- R200 to R209: I2D, I2F, D2I, F2I, I2U, U2I, U2D, U2F, D2U, F2U. What each rule gives for encoding, Decode lines, flags (none), conditions (none) and spelling. -/
def Obligations.ConversionsDecodeAsRuled : Prop :=
  RawMeaning .i2d .i2d 78 5 1 4 "I2D" ∧
    RawMeaning .i2f .i2f 79 5 1 3 "I2F" ∧
    RawMeaning .d2i .d2i 80 5 4 1 "D2I" ∧
    RawMeaning .f2i .f2i 81 5 3 1 "F2I" ∧
    RawMeaning .i2u .i2u 82 5 1 2 "I2U" ∧
    RawMeaning .u2i .u2i 83 5 2 1 "U2I" ∧
    RawMeaning .u2d .u2d 84 5 2 4 "U2D" ∧
    RawMeaning .u2f .u2f 85 5 2 3 "U2F" ∧
    RawMeaning .d2u .d2u 86 5 4 2 "D2U" ∧
    RawMeaning .f2u .f2u 87 5 3 2 "F2U"

/-- R87: the unknown-opcode fallback; no word raises anything (R86). -/
def Obligations.UnknownOpcodeFallsBack : Prop :=
  ∀ op a b c,
    (∀ p ver, opReg p ver op = none → decodeWord p ver (packBytes op a b c) = .unknown op a b c) ∧
      (∀ s : State, exec (.unknown op a b c) s =
        .next { s with iwdOut := ⟨op, a, b, c, false, 127, 0, 7, 0, 0, 0, .raw a b c⟩ }) ∧
      iwdText ⟨op, a, b, c, false, 127, 0, 7, 0, 0, 0, .raw a b c⟩ =
        "UNKNOWN(".toList ++ decimal op.toNat ++ ") a=".toList ++ decimal a.toNat ++
          " b=".toList ++ decimal b.toNat ++ " c=".toList ++ decimal c.toNat

/-- R71, R72, R73: field extraction, packing with its mask and refusal, and the three round-trip laws. -/
def Obligations.WordPackingRoundTrips : Prop :=
  (∀ op a b c : Int, 0 ≤ op → op < 256 → ∃ w, iwe ⟨op, a, b, c⟩ = some w ∧
      ((opField w).toNat : Int) = op ∧ ((faField w).toNat : Int) = a % 256 ∧
      ((fbField w).toNat : Int) = b % 256 ∧ ((fcField w).toNat : Int) = c % 256 ∧
      (w.toNat : Int) = op * 2 ^ 24 + a % 256 * 2 ^ 16 + b % 256 * 2 ^ 8 + c % 256) ∧
    (∀ op a b c : Int, op < 0 ∨ 256 ≤ op → iwe ⟨op, a, b, c⟩ = none) ∧
    (∀ w : Word, iwe ⟨(opField w).toNat, (faField w).toNat, (fbField w).toNat,
      (fcField w).toNat⟩ = some w) ∧
    ∀ p ver (w : Word), (iwd p ver w).op = w.extractLsb' 24 8 ∧
      (iwd p ver w).fa = w.extractLsb' 16 8 ∧ (iwd p ver w).fb = w.extractLsb' 8 8 ∧
      (iwd p ver w).fc = w.extractLsb' 0 8

/-- Decode and encode agree, for all 89 constructors, in both file orders (R45). -/
def Obligations.DecodeOfEncodeIsTheInstruction : Prop :=
  ∀ p ver (i : Instr), i.WellFormed p ver = true →
    decodeWord p ver (encode i) = i ∧
      ∀ rest, decode p ver (encodeBytes p.wordOrder i ++ rest) = .ok (i, rest)

/-- No word is illegal and no bit of it is lost (R73 law 2, R86). -/
def Obligations.EncodeOfDecodeIsTheWord : Prop :=
  (∀ p ver w, encode (decodeWord p ver w) = w ∧ (decodeWord p ver w).WellFormed p ver = true) ∧
    ∀ p ver bs, (bs.length < 4 → decode p ver bs = .error (.truncated bs.length)) ∧
      (4 ≤ bs.length → ∃ i, decode p ver bs = .ok (i, bs.drop 4) ∧
        encodeBytes p.wordOrder i = bs.take 4)

/-- Words of 95_test_vectors.md under the registry the machine is reset with (the model's choice, log 2). -/
def Obligations.SampleWordsDecode : Prop :=
  decodeTableWord 32 0x00010203 = some (.halt 0x00 1 2 3) ∧
    decodeTableWord 32 0x02FFFFFD = some (.jmp 0x02 0xFFFFFD) ∧
    decodeTableWord 32 0x0300AAFF = some (.jmpif 0x03 0 0xAA 0xFF) ∧
    decodeTableWord 32 0x0701FFFF = some (.loadi 0x07 1 0xFFFF) ∧
    decodeTableWord 32 0x0A010055 = some (.storeg 0x0A 1 0 0x55) ∧
    decodeTableWord 32 0x0B000200 = some (.call 0x0B 0 2 0) ∧
    decodeTableWord 32 0x0E010203 = some (.add 0x0E 1 2 3) ∧
    decodeTableWord 32 0x2B031122 = some (.fneg 0x2B 3 0x11 0x22) ∧
    decodeTableWord 32 0x4DC80000 = some (.ubnot 0x4D 200 0 0) ∧
    decodeTableWord 32 0x51020100 = some (.f2i 0x51 2 1 0) ∧
    decodeTableWord 32 0xFA010203 = some (.unknown 0xFA 1 2 3)

/-- R77 laws 1 to 3 on the conversions of R8. -/
def Obligations.SignedFieldLaws : Prop :=
  ∀ n : Nat, n = 16 ∨ n = 24 ∨ n = 64 →
    (∀ v : Int, -2 ^ (n - 1) ≤ v → v < 2 ^ (n - 1) → toSigned (toUnsigned n v) = v) ∧
      (∀ v : Int, toSigned (toUnsigned n v) = (v + 2 ^ (n - 1)) % 2 ^ n - 2 ^ (n - 1)) ∧
      ∀ u : BitVec n, toUnsigned n (toSigned u) = u

/-- R76 and R78 (the helpers), R77 law 2 (the wrap). That a helper is refused where no opcode exists is log 16. -/
def Obligations.LoadiAndJmpPackersWrap : Prop :=
  ∀ p ver dst v,
    (∀ f, loadiFields p ver dst v = some f → ∃ w op, iwe f = some w ∧
      decodeWord p ver w = .loadi op (low8 dst) (BitVec.ofInt 16 v) ∧
      (iwd p ver w).simm = BitVec.ofInt 32 ((v + 32768) % 65536 - 32768)) ∧
    (∀ f, jmpFields p ver v = some f → ∃ w op, iwe f = some w ∧
      decodeWord p ver w = .jmp op (BitVec.ofInt 24 v) ∧
      (iwd p ver w).simm = BitVec.ofInt 32 ((v + 8388608) % 16777216 - 8388608)) ∧
    (loadiFields p ver dst v = none ↔ ∀ op, opReg p ver op ≠ some .loadi) ∧
    (jmpFields p ver v = none ↔ ∀ op, opReg p ver op ≠ some .jmp)

/-- R82 item 3: OPNUM is well defined where it exists. -/
def Obligations.OpnumInvertsOpreg : Prop :=
  ∀ p ver m,
    (∀ op, opNum p ver m = some op → opReg p ver op = some m) ∧
      (∀ op, opReg p ver op = some m → ∃ op', opNum p ver m = some op') ∧
      ∀ op, Admissible p → admits p ver = true → opReg p ver op = some m → opNum p ver m = some op

/-- R91: the test registry REG_T, and that it meets the constraints of R82. -/
def Obligations.TestRegistryMeetsTheConstraints : Prop :=
  ∀ p : Params, p.opreg = regT →
    (∀ ver op, admits p ver = true → opReg p ver op =
      if op.toNat ≤ 87 then allMnemonics.find? (fun m => (mnInfo m).id.toNat == op.toNat)
      else none) ∧
    (∀ n, n ≤ 87 → ∃ m, allMnemonics.find? (fun m => (mnInfo m).id.toNat == n) = some m) ∧
    Admissible p

/-- I16 of 93_implementation_defined.md; the model reads it as OPREG being empty there (log 11). -/
def Obligations.UnadmittedVersionsDecodeUnknown : Prop :=
  ∀ p ver op a b c, admits p ver = false →
    decodeWord p ver (packBytes op a b c) = .unknown op a b c ∧
      iwd p ver (packBytes op a b c) = ⟨op, a, b, c, false, 127, 0, 7, 0, 0, 0, .raw a b c⟩

/-- The 89 meanings written from R100 to R209 and R87 agree with the one dispatch function written from R81 and R83. -/
def Obligations.IwdIsTheInstructionsMeaning : Prop :=
  ∀ p ver w (s : State),
    exec (decodeWord p ver w) s = .next { s with iwdOut := iwd p ver w }

/-- R88: `ver` acts only through the registry. -/
def Obligations.VersionChangesNoRawPort : Prop :=
  ∀ p p' ver ver' w,
    (iwd p ver w).op = (iwd p' ver' w).op ∧ (iwd p ver w).fa = (iwd p' ver' w).fa ∧
      (iwd p ver w).fb = (iwd p' ver' w).fb ∧ (iwd p ver w).fc = (iwd p' ver' w).fc ∧
      (opReg p ver (opField w) = opReg p' ver' (opField w) → iwd p ver w = iwd p' ver' w)

/-- R85: an unused field is not checked and has no effect on any other output. -/
def Obligations.UnusedFieldsHaveNoEffect : Prop :=
  ∀ p ver op a b c b' c' m, opReg p ver op = some m →
    ((mnInfo m).form = .a → iwd p ver (packBytes op a b' c') =
      { iwd p ver (packBytes op a b c) with fb := b', fc := c' }) ∧
    ((mnInfo m).form = .ab ∨ (mnInfo m).form = .aidx → iwd p ver (packBytes op a b c') =
      { iwd p ver (packBytes op a b c) with fc := c' }) ∧
    ((mnInfo m).form = .aoff8 → iwd p ver (packBytes op a b' c) =
      { iwd p ver (packBytes op a b c) with fb := b' })

/-- No instruction computes, stores, jumps or raises in this block (R10, R23, R51, R252). The fields named are the model's (log 1). -/
def Obligations.InstructionsChangeOnlyIwdOutputs : Prop :=
  ∀ i (s : State), ∃ t, exec i s = .next t ∧
    t.params = s.params ∧ t.requests = s.requests ∧ t.reading = s.reading ∧ t.iwdIn = s.iwdIn ∧
    t.svdIn = s.svdIn ∧ t.svdOut = s.svdOut ∧ t.iweIn = s.iweIn ∧ t.iweOut = s.iweOut ∧
    t.sveIn = s.sveIn ∧ t.sveOut = s.sveOut ∧ t.status = s.status ∧ t.reports = s.reports ∧
    ∀ r r' a, s.reading = some r → t.reading = some r' → r'.image.byteAt a = r.image.byteAt a

/-- R210 and R214 to R222: the slot layout and the reading of each kind. -/
def Obligations.SlotKindsDecodeAsRuled : Prop :=
  ∀ ver (s : Slot), ∃ o, svd ver (slotBytes s) = .decoded o ∧
    o.tag = s.tag ∧ o.payload = s.payload ∧ (o.bval = true ↔ s.payload ≠ 0) ∧
    o.f32.toNat = s.payload.toNat % 2 ^ 32 ∧ o.pad.toNat = s.payload.toNat / 2 ^ 32 ∧
    o.entry.toNat = s.payload.toNat % 2 ^ 32 ∧
    o.argc.toNat = s.payload.toNat / 2 ^ 32 % 2 ^ 16 ∧ o.regc.toNat = s.payload.toNat / 2 ^ 48 ∧
    (s.tag = 0 → o.value = .nul ∧ o.kind = 0 ∧ (o.noncanon = true ↔ s.payload ≠ 0)) ∧
    (s.tag = 1 → o.value = .bool (decide (s.payload ≠ 0)) ∧ o.kind = 1 ∧
      (o.noncanon = true ↔ s.payload ≠ 0 ∧ s.payload ≠ 1)) ∧
    (s.tag = 2 → o.value = .u64 s.payload.toNat ∧ o.kind = 2 ∧ o.noncanon = false) ∧
    (s.tag = 3 → o.value = .i64 (if s.payload.msb then (s.payload.toNat : Int) - 2 ^ 64
      else s.payload.toNat) ∧ o.kind = 3 ∧ o.noncanon = false) ∧
    (s.tag = 4 → o.value = .float o.f32 ∧ o.kind = 4 ∧ (o.noncanon = true ↔ o.pad ≠ 0)) ∧
    (s.tag = 5 → o.value = .double s.payload ∧ o.kind = 5 ∧ o.noncanon = false) ∧
    (s.tag = 6 → o.value = .obj s.payload ∧ o.kind = 6 ∧ o.noncanon = false) ∧
    (s.tag = 7 → o.value = .callable o.entry.toNat o.argc.toNat o.regc.toNat ∧ o.kind = 7 ∧
      o.noncanon = false) ∧
    (s.tag.toNat ≤ 7 → o.knownTag = true) ∧
    (7 < s.tag.toNat → o.value = .unknown s.tag s.payload ∧ o.kind = 15 ∧ o.knownTag = false ∧
      o.noncanon = false)

/-- R211: the length check, on bytes and on the ports of R25. -/
def Obligations.SlotLengthIsCheckedFirst : Prop :=
  (∀ ver bs, bs.length ≠ 9 → svd ver bs = .malformed bs.length) ∧
    (∀ ver bs, bs.length = 9 → ∃ s : Slot, slotBytes s = bs ∧ svd ver bs = .decoded (svdSlot ver s)) ∧
    (∀ ver slot (len : BitVec 4), len ≠ 9 → svdPorts ver slot len = .malformed len.toNat) ∧
    ∀ ver (s : Slot), svdPorts ver (slotPort s) 9 = svd ver (slotBytes s)

/-- R223 to R232 for values given as integers and patterns. A FLOAT made of a host number is a request of its own. That UNKNOWN(t, q) encodes so also where t names a kind is the model's reading (log 15), and a negative CALLABLE field cannot be asked for (log 23). -/
def Obligations.ValuesEncodeAsRuled : Prop :=
  (∀ (s : Slot), (slotBytes s).length = 9 ∧ (slotBytes s)[0]? = some s.tag ∧
      ∀ i, i < 8 → (slotBytes s)[i + 1]? = some (s.payload.extractLsb' (8 * i) 8)) ∧
    ∀ ver, sve ver .nul = some ⟨0, 0⟩ ∧
      (∀ b, sve ver (.bool b) = some ⟨1, if b then 1 else 0⟩) ∧
      (∀ n : Int, 0 ≤ n → n ≤ 2 ^ 64 - 1 → sve ver (.u64 n) = some ⟨2, BitVec.ofInt 64 n⟩) ∧
      (∀ n : Int, n < 0 ∨ 2 ^ 64 - 1 < n → sve ver (.u64 n) = none) ∧
      (∀ n : Int, -2 ^ 63 ≤ n → n ≤ 2 ^ 63 - 1 → sve ver (.i64 n) = some ⟨3, BitVec.ofInt 64 n⟩) ∧
      (∀ n : Int, n < -2 ^ 63 ∨ 2 ^ 63 - 1 < n → sve ver (.i64 n) = none) ∧
      (∀ f, sve ver (.float f) = some ⟨4, 0#32 ++ f⟩) ∧
      (∀ d, sve ver (.double d) = some ⟨5, d⟩) ∧ (∀ r, sve ver (.obj r) = some ⟨6, r⟩) ∧
      (∀ e a r, e < 2 ^ 32 → a < 2 ^ 16 → r < 2 ^ 16 → sve ver (.callable e a r) =
        some ⟨7, BitVec.ofNat 16 r ++ BitVec.ofNat 16 a ++ BitVec.ofNat 32 e⟩) ∧
      (∀ e a r, 2 ^ 32 ≤ e ∨ 2 ^ 16 ≤ a ∨ 2 ^ 16 ≤ r → sve ver (.callable e a r) = none) ∧
      ∀ t q, sve ver (.unknown t q) = some ⟨t, q⟩

/-- R234. The restriction to tags the registry does not name is log 15. -/
def Obligations.TypedValuesRoundTrip : Prop :=
  ∀ ver v slot, sve ver v = some slot →
    (∀ t q, v = .unknown t q → tagReg ver t = none) →
    ∃ o, svd ver (slotBytes slot) = .decoded o ∧ o.value = v ∧ o.noncanon = false

/-- R233: canonical slots. -/
def Obligations.NoncanonMarksWhatReencodesDifferently : Prop :=
  ∀ ver (s : Slot), ((svdSlot ver s).noncanon = false ↔ sve ver (svdSlot ver s).value = some s) ∧
    ∃ s', sve ver (svdSlot ver s).value = some s' ∧ s'.tag = s.tag

/-- The reader stepped by Reader.lean refines the function of Container.lean (R48). The unit of a step and so the bound on their number are the model's choice (log 7), and so are the status and the report after the operation (log 8). -/
def Obligations.ReaderRunsReadContainer : Prop :=
  ∀ (s : State) img qs, s.reading = none → s.requests = .readImage img :: qs →
    ∃ n t, n ≤ 2 + img.header.n.toNat + img.header.k.toNat + img.header.m.toNat ∧
      Host.Core.run Sys2Proof.core n s = .next t ∧ t.reading = none ∧ t.requests = qs ∧
      t.params = s.params ∧ t.reports = s.reports ++ [reportOf (readContainer s.params img)] ∧
      t.status = (match readContainer s.params img with | .ok _ => none | .error c => some c)

/-- A condition ends its own file and the next starts with nothing carried over (R258, R259, R262). The order of requests and so of reports is the model's choice (log 6), and so is a condition as a next state with a report (log 8). -/
def Obligations.BatchFilesAreIndependent : Prop :=
  ∀ (s : State) (imgs : List Image) qs, s.reading = none → s.requests = imgs.map Request.readImage ++ qs →
    ∃ n t, Host.Core.run Sys2Proof.core n s = .next t ∧ t.reading = none ∧ t.requests = qs ∧
      t.reports = s.reports ++ imgs.map (fun img => reportOf (readContainer s.params img))

/-- R276: the well-formed round trip, for both file orders and both settings of STRICT_MAGIC. -/
def Obligations.WrittenImagesReadBack : Prop :=
  ∀ p ver flags (n k m : BitVec 32) (ws : List Word) (cs gs : List Slot), n.toNat = ws.length →
    k.toNat = cs.length → m.toNat = gs.length →
    readContainer p (Image.ofBytes (writeContainer p ver flags n k m ws cs gs)) =
      .ok ⟨⟨p.magic, ver, flags, n, k, m⟩, ws.mapIdx (fun i w => ⟨i, iwd p ver w⟩),
        cs.mapIdx (fun j c => ⟨.const, j, svdSlot ver c⟩),
        gs.mapIdx (fun j g => ⟨.global, j, svdSlot ver g⟩)⟩

/-- R52 and R274: the writer takes the counts as given and does not check them. The canonical form of an image is the model's choice (log 9). -/
def Obligations.WriterWritesContentWhateverTheCounts : Prop :=
  (∀ p ver flags (n k m : BitVec 32) (ws : List Word) (cs gs : List Slot) img,
      img = Image.ofBytes (writeContainer p ver flags n k m ws cs gs) →
      img.len = 20 + 4 * ws.length + 9 * cs.length + 9 * gs.length ∧
      img.header = ⟨p.magic, ver, flags, n, k, m⟩ ∧
      (∀ i w, ws[i]? = some w → img.readBytes (20 + 4 * i) 4 = wordBytes p.wordOrder w) ∧
      (∀ j c, cs[j]? = some c →
        img.readBytes (20 + 4 * ws.length + 9 * j) 9 = slotBytes c) ∧
      ∀ j g, gs[j]? = some g →
        img.readBytes (20 + 4 * ws.length + 9 * cs.length + 9 * j) 9 = slotBytes g) ∧
    ∀ bs : List Byte, (Image.ofBytes bs).wf = true ∧ (Image.ofBytes bs).len = bs.length ∧
      ∀ a, (Image.ofBytes bs).byteAt a = bs[a]?

/-- R47. -/
def Obligations.TrailingBytesAreIgnored : Prop :=
  ∀ p (bs extra : List Byte) l, readContainer p (Image.ofBytes bs) = .ok l →
    readContainer p (Image.ofBytes (bs ++ extra)) = .ok l

/-- R251, R253 and their order (R257). -/
def Obligations.HeaderConditions : Prop :=
  ∀ p img,
    (img.len < 20 → readContainer p img = .error (.truncatedHeader img.len)) ∧
      (20 ≤ img.len → p.strictMagic = true → img.magic ≠ p.magic →
        readContainer p img = .error (.badMagic img.magic)) ∧
      (∀ g, p.strictMagic = false → readContainer p img ≠ .error (.badMagic g)) ∧
      (20 ≤ img.len → p.strictMagic = false ∨ img.magic = p.magic →
        readHeader p img = .ok img.header)

/-- R254: the first such word, since the words before i end at 20 + 4i. -/
def Obligations.StreamCutShortRaisesAtFirstWord : Prop :=
  ∀ p img h i, readHeader p img = .ok h → i < h.n.toNat → 20 + 4 * i ≤ img.len →
    img.len < 20 + 4 * (i + 1) →
    readContainer p img = .error (.truncatedStream i (img.len - (20 + 4 * i)))

/-- R255 and the order of R257. -/
def Obligations.SlotCutShortRaisesAtFirstSlot : Prop :=
  ∀ p img h j, readHeader p img = .ok h →
    (j < h.k.toNat → 20 + 4 * h.n.toNat + 9 * j ≤ img.len →
      img.len < 20 + 4 * h.n.toNat + 9 * (j + 1) →
      readContainer p img = .error (.malformedSlot (img.len - (20 + 4 * h.n.toNat + 9 * j))
        (some (.const, j)))) ∧
    (j < h.m.toNat → 20 + 4 * h.n.toNat + 9 * h.k.toNat + 9 * j ≤ img.len →
      img.len < 20 + 4 * h.n.toNat + 9 * h.k.toNat + 9 * (j + 1) →
      readContainer p img = .error
        (.malformedSlot (img.len - (20 + 4 * h.n.toNat + 9 * h.k.toNat + 9 * j))
          (some (.global, j))))

/-- R50: the counts are trusted; R256: unknown opcodes and tags are not conditions. -/
def Obligations.ListingExactlyWhenTheCountsFit : Prop :=
  ∀ p img, ((∃ l, readContainer p img = .ok l) ↔ ∃ h, readHeader p img = .ok h ∧
      20 + 4 * h.n.toNat + 9 * h.k.toNat + 9 * h.m.toNat ≤ img.len) ∧
    ∀ l, readContainer p img = .ok l → l.header = img.header ∧
      l.words.length = img.header.n.toNat ∧ l.consts.length = img.header.k.toNat ∧
      l.globals.length = img.header.m.toNat

/-- The step around exec: the input ports, and the listing entry (R48) or the report. One word a step is log 7, the requests and reports are logs 6 and 8. -/
def Obligations.StepRunsTheDecodedInstruction : Prop :=
  (∀ (s : State) r i, s.reading = some r → r.words.length < r.header.n.toNat →
      decode s.params r.header.ver (r.image.readBytes (wordOffset r.words.length) 4) =
        .ok (i, []) →
      ∃ t, exec i (s.driveIwdIn (encode i) r.header.ver) = .next t ∧
        step s = .next (t.recordWord r)) ∧
    ∀ (s : State) iw ver qs, s.reading = none → s.requests = .decodeWord iw ver :: qs →
      ∃ t, exec (decodeWord s.params ver iw)
          ({ s with requests := qs }.driveIwdIn iw ver) = .next t ∧
        step s = .next (t.complete (.word t.iwdOut))

/-- How a word comes to run (log 10). -/
def Obligations.PlacedWordRunsNext : Prop :=
  ∀ (s : State) w, (∀ r, s.reading = some r → r.image.wf = true) → w < 2 ^ 32 →
    ∃ t, step (s.withFetchWord 32 w) = .next t ∧ t.iwdIn.iw = BitVec.ofNat 32 w ∧
      t.iwdOut = iwd s.params t.iwdIn.ver (BitVec.ofNat 32 w) ∧ t.requests = s.requests ∧
      t.reports = s.reports

/-- R258: no listing, precise; R259: nothing is carried over. That a condition is a next state with a status and a report is the model's choice (log 8), and so are one word or slot a step (log 7) and ports that hold (log 1). -/
def Obligations.ConditionEndsOnlyItsOperation : Prop :=
  (∀ (s : State) img c qs, s.reading = none → s.requests = .readImage img :: qs →
      readHeader s.params img = .error c → step s =
        .next { s with requests := qs, reading := none, status := some c,
                       reports := s.reports ++ [.raised c] }) ∧
    (∀ (s : State) r, s.reading = some r → r.words.length < r.header.n.toNat →
      r.image.len < wordOffset (r.words.length + 1) → step s =
        .next { s with
          reading := none
          status := some (.truncatedStream r.words.length
            (r.image.len - wordOffset r.words.length))
          reports := s.reports ++ [.raised (.truncatedStream r.words.length
            (r.image.len - wordOffset r.words.length))] }) ∧
    ∀ (s : State) r pool j o c, s.reading = some r → r.takesSlot pool →
      j = (r.entries pool).length → o = slotOffset r.header pool j →
      r.image.len < o + 9 → c = .malformedSlot (r.image.len - o) (some (pool, j)) → step s =
        .next { s with
          reading := none
          svdIn := ⟨r.image.readBytes o 9, r.header.ver⟩
          svdOut := .malformed (r.image.len - o)
          status := some c
          reports := s.reports ++ [.raised c] }

/-- The pack side as the outside uses it. A host number as a 64-bit pattern is the model's choice (log 4), and so are the requests (log 6), the status and the reports (log 8), and that a refusal ends the run (log 17). -/
def Obligations.PackRequestsAnswer : Prop :=
  ∀ (s : State) qs, s.reading = none →
    (∀ op a b c w, s.requests = .packWord op a b c :: qs → iwe ⟨op, a, b, c⟩ = some w →
      step s = .next { s with requests := qs, reading := none, iweIn := ⟨op, a, b, c⟩, iweOut := w,
                              status := none, reports := s.reports ++ [.packedWord w] }) ∧
    (∀ op a b c, s.requests = .packWord op a b c :: qs → op < 0 ∨ 256 ≤ op →
      step s = .refused (.opcodeOutOfRange op)) ∧
    (∀ ver dst v f w, s.requests = .packLoadi ver dst v :: qs →
      loadiFields s.params ver dst v = some f → iwe f = some w →
      step s = .next { s with requests := qs, reading := none, iweIn := f, iweOut := w,
                              status := none, reports := s.reports ++ [.packedWord w] }) ∧
    (∀ ver v f w, s.requests = .packJmp ver v :: qs →
      jmpFields s.params ver v = some f → iwe f = some w →
      step s = .next { s with requests := qs, reading := none, iweIn := f, iweOut := w,
                              status := none, reports := s.reports ++ [.packedWord w] }) ∧
    (∀ ver v slot, s.requests = .packSlot ver v :: qs → sve ver v = some slot →
      step s = .next { s with requests := qs, reading := none, sveIn := ⟨ver, v⟩, sveOut := slot,
                              status := none, reports := s.reports ++ [.packedSlot slot] }) ∧
    (∀ ver v, s.requests = .packSlot ver v :: qs → sve ver v = none →
      step s = .refused (.valueOutOfRange v)) ∧
    ∀ ver x, s.requests = .packHostFloat ver x :: qs → ∃ t, step s = .next t ∧
      t.sveIn = ⟨ver, .float (Config.f32FromHost x)⟩ ∧
      t.sveOut = ⟨4, 0#32 ++ Config.f32FromHost x⟩ ∧
      t.reports = s.reports ++ [.packedSlot t.sveOut]

/-- What the other requests do (R211, R52, R260). That the outside asks by requests, that a cancel is one and that an idle step keeps the state are the model's choices (log 6), and so are the status and the reports (log 8) and the form of the written image (log 9). -/
def Obligations.SlotAndImageRequestsAnswer : Prop :=
  ∀ (s : State) qs, s.reading = none →
    (∀ bytes ver o, s.requests = .decodeSlot bytes ver :: qs → svd ver bytes = .decoded o →
      step s = .next { s with requests := qs, reading := none, svdIn := ⟨bytes, ver⟩,
                              svdOut := .decoded o, status := none,
                              reports := s.reports ++ [.slot o] }) ∧
    (∀ bytes ver, s.requests = .decodeSlot bytes ver :: qs → bytes.length ≠ 9 →
      step s = .next { s with requests := qs, reading := none, svdIn := ⟨bytes, ver⟩,
                              svdOut := .malformed bytes.length,
                              status := some (.malformedSlot bytes.length none),
                              reports := s.reports ++
                                [.raised (.malformedSlot bytes.length none)] }) ∧
    (∀ ver flags n k m ws cs gs, s.requests = .writeImage ver flags n k m ws cs gs :: qs →
      step s = .next { s with
        requests := qs, reading := none, status := none
        reports := s.reports ++
          [.image (Image.ofBytes (writeContainer s.params ver flags n k m ws cs gs))] }) ∧
    (s.requests = .cancel :: qs → step s = .next { s with requests := [] }) ∧
    (s.requests = [] → step s = .next s)

/-- The canonical form is the model's (log 9). -/
def Obligations.StepKeepsImagesCanonical : Prop :=
  ∀ s t, ImagesCanonical s → step s = .next t → ImagesCanonical t

/-- The base case of StepKeepsImagesCanonical. -/
def Obligations.ResetImagesCanonical : Prop :=
  ImagesCanonical State.reset

/-- R20: the units are combinational. Ports as fields are log 1. The 89 meanings are what drives IWD's outputs, so this holds only if each agrees with the dispatch. -/
def Obligations.StepKeepsPortsCombinational : Prop :=
  ∀ s t, PortsCombinational s → step s = .next t → PortsCombinational t

/-- R29 and R270. Which inputs are present, and the parameters R6 leaves open, are the model's choice (logs 2 to 5). -/
def Obligations.ResetPortsCombinational : Prop :=
  PortsCombinational State.reset

/-- The model's choice of what holds before the first operation (logs 1, 6, 8); the base case of StepKeepsReadingSound. -/
def Obligations.ResetHasNothingUnderWay : Prop :=
  State.reset.reading = none ∧ State.reset.requests = [] ∧ State.reset.status = none ∧
    State.reset.reports = [] ∧ ReadingSound State.reset

/-- Every entry of a listing comes from the bytes R45 and R46 name, under the image's own version (R44). -/
def Obligations.StepKeepsReadingSound : Prop :=
  ∀ s t, ReadingSound s → step s = .next t → ReadingSound t

/-- R28: the parameters are not changed by any operation. -/
def Obligations.StepKeepsParameters : Prop :=
  ∀ s t, step s = .next t → t.params = s.params

/-- R51: the reader never modifies B. A reading as a field and its reports are logs 1 and 8. -/
def Obligations.ReadingNeverWritesItsImage : Prop :=
  ∀ s t r r', s.reading = some r → step s = .next t → t.reading = some r' →
    r'.image = r.image ∧ r'.header = r.header ∧
      (∀ a, r'.image.byteAt a = r.image.byteAt a) ∧ t.reports = s.reports ∧
      t.requests = s.requests

/-- Conditions of one file do not affect what was reported of others (R258). Reports as a list are the model's choice (log 8). -/
def Obligations.ReportsOnlyGrow : Prop :=
  ∀ s t, step s = .next t →
    t.reports = s.reports ∨ ∃ o, t.reports = s.reports ++ [o] ∧ t.reading = none

/-- The block computes no jump target (R102). -/
def Obligations.JumpBaseChangesNothing : Prop :=
  ∀ (s : State) base,
    step (s.withJmpBase base) = mapNext (·.withJmpBase base) (step s)

/-- R12: decode-side operations refuse nothing, and the pack side refuses an opcode or a value outside its domain. The two noOpcode cases are the model's own refusal (log 16), and that a refusal ends the run is log 17. -/
def Obligations.RefusalsAreThePackSides : Prop :=
  ∀ s : State, ((∃ t, step s = .next t) ∨ ∃ q, step s = .refused q) ∧
    ∀ q, step s = .refused q ↔ s.reading = none ∧ ∃ rq qs, s.requests = rq :: qs ∧
      ((∃ op a b c, rq = .packWord op a b c ∧ (op < 0 ∨ 256 ≤ op) ∧ q = .opcodeOutOfRange op) ∨
       (∃ ver v, rq = .packSlot ver v ∧ sve ver v = none ∧ q = .valueOutOfRange v) ∨
       (∃ ver dst v, rq = .packLoadi ver dst v ∧ (∀ op, opReg s.params ver op ≠ some .loadi) ∧
         q = .noOpcode .loadi) ∨
       (∃ ver v, rq = .packJmp ver v ∧ (∀ op, opReg s.params ver op ≠ some .jmp) ∧
         q = .noOpcode .jmp))

/-- R235, all nine rows; the source fixes I64 42 alone. That a digit above 9 is an upper-case letter is read from R235's examples (log 20). DecimalSpellingsReadBack says what decimal spells. -/
def Obligations.ValueSpellings : Prop :=
  valueText .nul = "NUL".toList ∧ valueText (.bool true) = "BOOL true".toList ∧
    valueText (.bool false) = "BOOL false".toList ∧
    (∀ n : Nat, valueText (.u64 n) = "U64 ".toList ++ decimal n) ∧
    (∀ n : Int, valueText (.i64 n) = "I64 ".toList ++ (if n < 0 then ['-'] else []) ++
      decimal n.natAbs) ∧
    (∀ f : BitVec 32, ∃ ds, valueText (.float f) = "FLOAT 0x".toList ++ ds ∧
      IsHex 8 f.toNat ds) ∧
    (∀ d : BitVec 64, ∃ ds, valueText (.double d) = "DOUBLE 0x".toList ++ ds ∧
      IsHex 16 d.toNat ds) ∧
    (∀ r : BitVec 64, ∃ ds, valueText (.obj r) = "OBJ 0x".toList ++ ds ∧ IsHex 16 r.toNat ds) ∧
    (∀ e a r, valueText (.callable e a r) = "CALLABLE entry=".toList ++ decimal e ++
      " argc=".toList ++ decimal a ++ " regc=".toList ++ decimal r) ∧
    (∀ (t : Byte) (q : BitVec 64), ∃ bs : List (List Char), bs.length = 8 ∧
      valueText (.unknown t q) = "UNKNOWN_TAG(".toList ++ decimal t.toNat ++ ")".toList ++
        bs.flatMap (' ' :: ·) ∧
      ∀ i ds, bs[i]? = some ds → IsHex 2 (q.extractLsb' (8 * i) 8).toNat ds) ∧
    (∀ j o, slotLine ⟨.const, j, o⟩ = "const ".toList ++ decimal j ++ ": ".toList ++
      valueText o.value) ∧
    ∀ j o, slotLine ⟨.global, j, o⟩ = "global ".toList ++ decimal j ++ ": ".toList ++
      valueText o.value

/-- R89: numbers in decimal. The numbers are unbounded (an index, a 64-bit value). -/
def Obligations.DecimalSpellingsReadBack : Prop :=
  ∀ n : Nat, decimal n ≠ [] ∧ (∀ ch ∈ decimal n, 48 ≤ ch.toNat ∧ ch.toNat ≤ 57) ∧
    (n ≠ 0 → (decimal n).head? ≠ some '0') ∧
    (decimal n).foldl (fun v ch => 10 * v + (ch.toNat - 48)) 0 = n

/-- R275: the format's main fragility, whatever MAGIC is. The payload is the one R46 and R210 give; P6 of 95_test_vectors.md prints another (log 19). -/
def Obligations.DesynchronisedImageListsWrongSlots : Prop :=
  ∃ l e, readContainer resetParams
      (Image.ofBytes (writeContainer resetParams 1 0 2 1 0 [0x07000005, 0x0E000000, 0]
        [⟨3, 42⟩] [])) = .ok l ∧ l.words.length = 2 ∧ l.consts = [e] ∧ l.globals = [] ∧
      e.out.value = .nul ∧ e.out.noncanon = true ∧ e.out.payload = 0x0000002A03000000

/-- R6: MAGIC is OPEN but is four bytes of ASCII; R43 and R253: a mismatch is BadMagic. -/
def Obligations.NonAsciiMagicIsRejected : Prop :=
  ∀ p : Params,
    (p.magic.b0.toNat < 128 ∧ p.magic.b1.toNat < 128 ∧ p.magic.b2.toNat < 128 ∧
      p.magic.b3.toNat < 128) ∧
    ∀ img o b, p.strictMagic = true → 20 ≤ img.len → o < 4 → img.byteAt o = some b →
      128 ≤ b.toNat → readContainer p img = .error (.badMagic img.magic)
end

