-- ==== Sys2Proof/Laws/PerInstr.lean ====
section
/-! SUPPORT. Per instruction: the mnemonic and the four bytes of an instruction determine it. -/

namespace Sys2Proof.Laws

/-- Rebuilding an instruction from the mnemonic and the bytes of its encoding gives it back. -/
def FieldsDetermine.Statement (i : Instr) : Prop :=
  (match (Machine.instrFields i).mn with
    | some m => Machine.instrOf m (Machine.instrFields i).op (Machine.instrFields i).a
        (Machine.instrFields i).b (Machine.instrFields i).c
    | none => .unknown (Machine.instrFields i).op (Machine.instrFields i).a
        (Machine.instrFields i).b (Machine.instrFields i).c) = i

/-- A bit named by an equal position. -/
theorem getLsbD_at {n : Nat} (v : BitVec n) (i j : Nat) (h : i < n) (e : j = i) :
    v.getLsbD j = v[i] := by
  subst e
  exact BitVec.getLsbD_eq_getElem h

/-- Two bytes of a 16-bit field, put together again. -/
theorem bits_append_16 (v : BitVec 16) : Machine.bits v 8 ++ Machine.bits v 0 = v := by
  simp only [Machine.bits]
  ext i hi
  simp only [BitVec.getElem_append, BitVec.getElem_extractLsb']
  split <;> exact getLsbD_at v _ _ _ (by omega)

/-- Three bytes of a 24-bit field, put together again. -/
theorem bits_append_24 (v : BitVec 24) :
    Machine.bits v 16 ++ Machine.bits v 8 ++ Machine.bits v 0 = v := by
  simp only [Machine.bits]
  ext i hi
  simp only [BitVec.getElem_append, BitVec.getElem_extractLsb']
  repeat' split
  all_goals exact getLsbD_at v _ _ _ (by omega)

theorem FieldsDetermine.halt (op a b c : Byte) :
    FieldsDetermine.Statement (.halt op a b c) := rfl

theorem FieldsDetermine.panic (op a b c : Byte) :
    FieldsDetermine.Statement (.panic op a b c) := rfl

theorem FieldsDetermine.jmp (op : Byte) (off : BitVec 24) :
    FieldsDetermine.Statement (.jmp op off) := by
  simp [FieldsDetermine.Statement, Machine.instrFields, Machine.instrOf, bits_append_24]

theorem FieldsDetermine.jmpif (op rt xb off : Byte) :
    FieldsDetermine.Statement (.jmpif op rt xb off) := rfl

theorem FieldsDetermine.jmpifz (op rt xb off : Byte) :
    FieldsDetermine.Statement (.jmpifz op rt xb off) := rfl

theorem FieldsDetermine.copy (op rd rs xc : Byte) :
    FieldsDetermine.Statement (.copy op rd rs xc) := rfl

theorem FieldsDetermine.move (op rd rs xc : Byte) :
    FieldsDetermine.Statement (.move op rd rs xc) := rfl

theorem FieldsDetermine.loadi (op rd : Byte) (imm : BitVec 16) :
    FieldsDetermine.Statement (.loadi op rd imm) := by
  simp [FieldsDetermine.Statement, Machine.instrFields, Machine.instrOf, bits_append_16]

theorem FieldsDetermine.loadc (op r k xc : Byte) :
    FieldsDetermine.Statement (.loadc op r k xc) := rfl

theorem FieldsDetermine.loadg (op r k xc : Byte) :
    FieldsDetermine.Statement (.loadg op r k xc) := rfl

theorem FieldsDetermine.storeg (op r k xc : Byte) :
    FieldsDetermine.Statement (.storeg op r k xc) := rfl

theorem FieldsDetermine.call (op a b c : Byte) :
    FieldsDetermine.Statement (.call op a b c) := rfl

theorem FieldsDetermine.tailcall (op a b c : Byte) :
    FieldsDetermine.Statement (.tailcall op a b c) := rfl

theorem FieldsDetermine.ret (op a b c : Byte) :
    FieldsDetermine.Statement (.ret op a b c) := rfl

theorem FieldsDetermine.add (op rd rs1 rs2 : Byte) :
    FieldsDetermine.Statement (.add op rd rs1 rs2) := rfl

theorem FieldsDetermine.sub (op rd rs1 rs2 : Byte) :
    FieldsDetermine.Statement (.sub op rd rs1 rs2) := rfl

theorem FieldsDetermine.mul (op rd rs1 rs2 : Byte) :
    FieldsDetermine.Statement (.mul op rd rs1 rs2) := rfl

theorem FieldsDetermine.div (op rd rs1 rs2 : Byte) :
    FieldsDetermine.Statement (.div op rd rs1 rs2) := rfl

theorem FieldsDetermine.mod (op rd rs1 rs2 : Byte) :
    FieldsDetermine.Statement (.mod op rd rs1 rs2) := rfl

theorem FieldsDetermine.neg (op r xb xc : Byte) :
    FieldsDetermine.Statement (.neg op r xb xc) := rfl

theorem FieldsDetermine.eq (op rd rs1 rs2 : Byte) :
    FieldsDetermine.Statement (.eq op rd rs1 rs2) := rfl

theorem FieldsDetermine.neq (op rd rs1 rs2 : Byte) :
    FieldsDetermine.Statement (.neq op rd rs1 rs2) := rfl

theorem FieldsDetermine.gt (op rd rs1 rs2 : Byte) :
    FieldsDetermine.Statement (.gt op rd rs1 rs2) := rfl

theorem FieldsDetermine.ge (op rd rs1 rs2 : Byte) :
    FieldsDetermine.Statement (.ge op rd rs1 rs2) := rfl

theorem FieldsDetermine.lt (op rd rs1 rs2 : Byte) :
    FieldsDetermine.Statement (.lt op rd rs1 rs2) := rfl

theorem FieldsDetermine.le (op rd rs1 rs2 : Byte) :
    FieldsDetermine.Statement (.le op rd rs1 rs2) := rfl

theorem FieldsDetermine.uadd (op rd rs1 rs2 : Byte) :
    FieldsDetermine.Statement (.uadd op rd rs1 rs2) := rfl

theorem FieldsDetermine.usub (op rd rs1 rs2 : Byte) :
    FieldsDetermine.Statement (.usub op rd rs1 rs2) := rfl

theorem FieldsDetermine.umul (op rd rs1 rs2 : Byte) :
    FieldsDetermine.Statement (.umul op rd rs1 rs2) := rfl

theorem FieldsDetermine.udiv (op rd rs1 rs2 : Byte) :
    FieldsDetermine.Statement (.udiv op rd rs1 rs2) := rfl

theorem FieldsDetermine.umod (op rd rs1 rs2 : Byte) :
    FieldsDetermine.Statement (.umod op rd rs1 rs2) := rfl

theorem FieldsDetermine.uneg (op r xb xc : Byte) :
    FieldsDetermine.Statement (.uneg op r xb xc) := rfl

theorem FieldsDetermine.ueq (op rd rs1 rs2 : Byte) :
    FieldsDetermine.Statement (.ueq op rd rs1 rs2) := rfl

theorem FieldsDetermine.uneq (op rd rs1 rs2 : Byte) :
    FieldsDetermine.Statement (.uneq op rd rs1 rs2) := rfl

theorem FieldsDetermine.ugt (op rd rs1 rs2 : Byte) :
    FieldsDetermine.Statement (.ugt op rd rs1 rs2) := rfl

theorem FieldsDetermine.uge (op rd rs1 rs2 : Byte) :
    FieldsDetermine.Statement (.uge op rd rs1 rs2) := rfl

theorem FieldsDetermine.ult (op rd rs1 rs2 : Byte) :
    FieldsDetermine.Statement (.ult op rd rs1 rs2) := rfl

theorem FieldsDetermine.ule (op rd rs1 rs2 : Byte) :
    FieldsDetermine.Statement (.ule op rd rs1 rs2) := rfl

theorem FieldsDetermine.fadd (op rd rs1 rs2 : Byte) :
    FieldsDetermine.Statement (.fadd op rd rs1 rs2) := rfl

theorem FieldsDetermine.fsub (op rd rs1 rs2 : Byte) :
    FieldsDetermine.Statement (.fsub op rd rs1 rs2) := rfl

theorem FieldsDetermine.fmul (op rd rs1 rs2 : Byte) :
    FieldsDetermine.Statement (.fmul op rd rs1 rs2) := rfl

theorem FieldsDetermine.fdiv (op rd rs1 rs2 : Byte) :
    FieldsDetermine.Statement (.fdiv op rd rs1 rs2) := rfl

theorem FieldsDetermine.fmod (op rd rs1 rs2 : Byte) :
    FieldsDetermine.Statement (.fmod op rd rs1 rs2) := rfl

theorem FieldsDetermine.fneg (op r xb xc : Byte) :
    FieldsDetermine.Statement (.fneg op r xb xc) := rfl

theorem FieldsDetermine.feq (op rd rs1 rs2 : Byte) :
    FieldsDetermine.Statement (.feq op rd rs1 rs2) := rfl

theorem FieldsDetermine.fneq (op rd rs1 rs2 : Byte) :
    FieldsDetermine.Statement (.fneq op rd rs1 rs2) := rfl

theorem FieldsDetermine.fgt (op rd rs1 rs2 : Byte) :
    FieldsDetermine.Statement (.fgt op rd rs1 rs2) := rfl

theorem FieldsDetermine.fge (op rd rs1 rs2 : Byte) :
    FieldsDetermine.Statement (.fge op rd rs1 rs2) := rfl

theorem FieldsDetermine.flt (op rd rs1 rs2 : Byte) :
    FieldsDetermine.Statement (.flt op rd rs1 rs2) := rfl

theorem FieldsDetermine.fle (op rd rs1 rs2 : Byte) :
    FieldsDetermine.Statement (.fle op rd rs1 rs2) := rfl

theorem FieldsDetermine.dadd (op rd rs1 rs2 : Byte) :
    FieldsDetermine.Statement (.dadd op rd rs1 rs2) := rfl

theorem FieldsDetermine.dsub (op rd rs1 rs2 : Byte) :
    FieldsDetermine.Statement (.dsub op rd rs1 rs2) := rfl

theorem FieldsDetermine.dmul (op rd rs1 rs2 : Byte) :
    FieldsDetermine.Statement (.dmul op rd rs1 rs2) := rfl

theorem FieldsDetermine.ddiv (op rd rs1 rs2 : Byte) :
    FieldsDetermine.Statement (.ddiv op rd rs1 rs2) := rfl

theorem FieldsDetermine.dmod (op rd rs1 rs2 : Byte) :
    FieldsDetermine.Statement (.dmod op rd rs1 rs2) := rfl

theorem FieldsDetermine.dneg (op r xb xc : Byte) :
    FieldsDetermine.Statement (.dneg op r xb xc) := rfl

theorem FieldsDetermine.deq (op rd rs1 rs2 : Byte) :
    FieldsDetermine.Statement (.deq op rd rs1 rs2) := rfl

theorem FieldsDetermine.dneq (op rd rs1 rs2 : Byte) :
    FieldsDetermine.Statement (.dneq op rd rs1 rs2) := rfl

theorem FieldsDetermine.dgt (op rd rs1 rs2 : Byte) :
    FieldsDetermine.Statement (.dgt op rd rs1 rs2) := rfl

theorem FieldsDetermine.dge (op rd rs1 rs2 : Byte) :
    FieldsDetermine.Statement (.dge op rd rs1 rs2) := rfl

theorem FieldsDetermine.dlt (op rd rs1 rs2 : Byte) :
    FieldsDetermine.Statement (.dlt op rd rs1 rs2) := rfl

theorem FieldsDetermine.dle (op rd rs1 rs2 : Byte) :
    FieldsDetermine.Statement (.dle op rd rs1 rs2) := rfl

theorem FieldsDetermine.and (op rd rs1 rs2 : Byte) :
    FieldsDetermine.Statement (.and op rd rs1 rs2) := rfl

theorem FieldsDetermine.or (op rd rs1 rs2 : Byte) :
    FieldsDetermine.Statement (.or op rd rs1 rs2) := rfl

theorem FieldsDetermine.xor (op rd rs1 rs2 : Byte) :
    FieldsDetermine.Statement (.xor op rd rs1 rs2) := rfl

theorem FieldsDetermine.shl (op rd rs1 rs2 : Byte) :
    FieldsDetermine.Statement (.shl op rd rs1 rs2) := rfl

theorem FieldsDetermine.shr (op rd rs1 rs2 : Byte) :
    FieldsDetermine.Statement (.shr op rd rs1 rs2) := rfl

theorem FieldsDetermine.sar (op rd rs1 rs2 : Byte) :
    FieldsDetermine.Statement (.sar op rd rs1 rs2) := rfl

theorem FieldsDetermine.uand (op rd rs1 rs2 : Byte) :
    FieldsDetermine.Statement (.uand op rd rs1 rs2) := rfl

theorem FieldsDetermine.uor (op rd rs1 rs2 : Byte) :
    FieldsDetermine.Statement (.uor op rd rs1 rs2) := rfl

theorem FieldsDetermine.uxor (op rd rs1 rs2 : Byte) :
    FieldsDetermine.Statement (.uxor op rd rs1 rs2) := rfl

theorem FieldsDetermine.ushl (op rd rs1 rs2 : Byte) :
    FieldsDetermine.Statement (.ushl op rd rs1 rs2) := rfl

theorem FieldsDetermine.ushr (op rd rs1 rs2 : Byte) :
    FieldsDetermine.Statement (.ushr op rd rs1 rs2) := rfl

theorem FieldsDetermine.usar (op rd rs1 rs2 : Byte) :
    FieldsDetermine.Statement (.usar op rd rs1 rs2) := rfl

theorem FieldsDetermine.lnot (op r xb xc : Byte) :
    FieldsDetermine.Statement (.lnot op r xb xc) := rfl

theorem FieldsDetermine.bnot (op r xb xc : Byte) :
    FieldsDetermine.Statement (.bnot op r xb xc) := rfl

theorem FieldsDetermine.ulnot (op r xb xc : Byte) :
    FieldsDetermine.Statement (.ulnot op r xb xc) := rfl

theorem FieldsDetermine.ubnot (op r xb xc : Byte) :
    FieldsDetermine.Statement (.ubnot op r xb xc) := rfl

theorem FieldsDetermine.i2d (op a b c : Byte) :
    FieldsDetermine.Statement (.i2d op a b c) := rfl

theorem FieldsDetermine.i2f (op a b c : Byte) :
    FieldsDetermine.Statement (.i2f op a b c) := rfl

theorem FieldsDetermine.d2i (op a b c : Byte) :
    FieldsDetermine.Statement (.d2i op a b c) := rfl

theorem FieldsDetermine.f2i (op a b c : Byte) :
    FieldsDetermine.Statement (.f2i op a b c) := rfl

theorem FieldsDetermine.i2u (op a b c : Byte) :
    FieldsDetermine.Statement (.i2u op a b c) := rfl

theorem FieldsDetermine.u2i (op a b c : Byte) :
    FieldsDetermine.Statement (.u2i op a b c) := rfl

theorem FieldsDetermine.u2d (op a b c : Byte) :
    FieldsDetermine.Statement (.u2d op a b c) := rfl

theorem FieldsDetermine.u2f (op a b c : Byte) :
    FieldsDetermine.Statement (.u2f op a b c) := rfl

theorem FieldsDetermine.d2u (op a b c : Byte) :
    FieldsDetermine.Statement (.d2u op a b c) := rfl

theorem FieldsDetermine.f2u (op a b c : Byte) :
    FieldsDetermine.Statement (.f2u op a b c) := rfl

theorem FieldsDetermine.unknown (op a b c : Byte) :
    FieldsDetermine.Statement (.unknown op a b c) := rfl

end Sys2Proof.Laws
end

