-- ==== Sys2Proof/Laws/Codec.lean ====
section
/-! SUPPORT. What the codec's shared operations do: fields and packing, byte orders, little-endian
numbers, the signed reading, SVD on the bytes of a slot. -/

namespace Sys2Proof.Machine

/-! ### Fields of a packed word -/

theorem bits_append_low (n : Nat) (x : BitVec n) (y : Byte) : bits (x ++ y) 0 = y := by
  simp only [bits]
  ext i hi
  simp only [BitVec.getElem_extractLsb', BitVec.getLsbD_append]
  rw [if_pos (by omega), Nat.zero_add]
  exact BitVec.getLsbD_eq_getElem hi

theorem bits_append_high (n lo : Nat) (x : BitVec n) (y : Byte) :
    bits (x ++ y) (lo + 8) = bits x lo := by
  simp only [bits]
  ext i hi
  simp only [BitVec.getElem_extractLsb', BitVec.getLsbD_append]
  rw [if_neg (by omega)]
  congr 1
  omega

@[simp] theorem fcField_packBytes (op a b c : Byte) : fcField (packBytes op a b c) = c :=
  bits_append_low _ _ _

@[simp] theorem fbField_packBytes (op a b c : Byte) : fbField (packBytes op a b c) = b :=
  (bits_append_high _ 0 _ _).trans (bits_append_low _ _ _)

@[simp] theorem faField_packBytes (op a b c : Byte) : faField (packBytes op a b c) = a :=
  (bits_append_high _ 8 _ _).trans ((bits_append_high _ 0 _ _).trans (bits_append_low _ _ _))

@[simp] theorem opField_packBytes (op a b c : Byte) : opField (packBytes op a b c) = op := by
  refine (bits_append_high _ 16 _ _).trans ((bits_append_high _ 8 _ _).trans
    ((bits_append_high _ 0 _ _).trans ?_))
  simp only [bits]
  ext i hi
  simp only [BitVec.getElem_extractLsb', Nat.zero_add]
  exact BitVec.getLsbD_eq_getElem hi

/-- A word is the packing of its four fields (R73 law 2). -/
@[simp] theorem packBytes_fields (w : Word) :
    packBytes (opField w) (faField w) (fbField w) (fcField w) = w := by
  simp only [packBytes, opField, faField, fbField, fcField, bits]
  ext i hi
  simp only [BitVec.getElem_append, BitVec.getElem_extractLsb']
  repeat' split
  all_goals exact Laws.getLsbD_at w _ _ _ (by omega)

theorem bits_low_16 (b c : Byte) : bits (b ++ c) 0 = c := bits_append_low _ _ _

theorem bits_self (b : Byte) : bits b 0 = b := by
  simp only [bits]
  ext i hi
  simp only [BitVec.getElem_extractLsb', Nat.zero_add]
  exact BitVec.getLsbD_eq_getElem hi

theorem bits_high_16 (b c : Byte) : bits (b ++ c) 8 = b :=
  (bits_append_high _ 0 _ _).trans (bits_self b)

theorem bits_low_24 (a b c : Byte) : bits (a ++ b ++ c) 0 = c := bits_append_low _ _ _

theorem bits_mid_24 (a b c : Byte) : bits (a ++ b ++ c) 8 = b :=
  (bits_append_high _ 0 _ _).trans (bits_append_low _ _ _)

theorem bits_high_24 (a b c : Byte) : bits (a ++ b ++ c) 16 = a :=
  (bits_append_high _ 8 _ _).trans ((bits_append_high _ 0 _ _).trans (bits_self a))

theorem packBytes_toNat (op a b c : Byte) : (packBytes op a b c).toNat =
    op.toNat * 2 ^ 24 + a.toNat * 2 ^ 16 + b.toNat * 2 ^ 8 + c.toNat := by
  have ha := a.isLt
  have hb := b.isLt
  have hc := c.isLt
  simp only [packBytes, BitVec.toNat_append]
  rw [← Nat.shiftLeft_add_eq_or_of_lt ha, ← Nat.shiftLeft_add_eq_or_of_lt hb,
    ← Nat.shiftLeft_add_eq_or_of_lt hc]
  simp only [Nat.shiftLeft_eq]
  omega

/-! ### Byte orders -/

/-- The bytes of a word read back as the word, in either file order (R45, R52). -/
theorem wordBytes_eq (o : WordOrder) (w : Word) : ∃ b0 b1 b2 b3,
    wordBytes o w = [b0, b1, b2, b3] ∧ wordOfBytes o b0 b1 b2 b3 = w := by
  cases o <;> exact ⟨_, _, _, _, rfl, packBytes_fields w⟩

/-- The bytes of the word four bytes make are those bytes. -/
theorem wordBytes_wordOfBytes (o : WordOrder) (b0 b1 b2 b3 : Byte) :
    wordBytes o (wordOfBytes o b0 b1 b2 b3) = [b0, b1, b2, b3] := by
  cases o <;> simp [wordBytes, wordOfBytes]

@[simp] theorem length_wordBytes (o : WordOrder) (w : Word) : (wordBytes o w).length = 4 := by
  cases o <;> rfl

/-! ### Little-endian numbers -/

@[simp] theorem length_leBytes (n v : Nat) : (leBytes n v).length = n := by
  induction n generalizing v with
  | zero => rfl
  | succ n ih => simp [leBytes, ih]

theorem leNat_leBytes (n v : Nat) : leNat (leBytes n v) = v % 256 ^ n := by
  induction n generalizing v with
  | zero => simp [leBytes, leNat, Nat.mod_one]
  | succ n ih =>
    have h : (BitVec.ofNat 8 v).toNat = v % 256 := by simp
    rw [leBytes, leNat, ih, h, Nat.pow_succ', Nat.mod_mul]

theorem leNat_lt (bs : List Byte) : leNat bs < 256 ^ bs.length := by
  induction bs with
  | nil => simp [leNat]
  | cons b bs ih =>
    have := b.isLt
    simp only [leNat, List.length_cons, Nat.pow_succ]
    omega

theorem leBytes_leNat (bs : List Byte) : leBytes bs.length (leNat bs) = bs := by
  induction bs with
  | nil => rfl
  | cons b bs ih =>
    have := b.isLt
    have h1 : (b.toNat + 256 * leNat bs) / 256 = leNat bs := by omega
    have h2 : BitVec.ofNat 8 (b.toNat + 256 * leNat bs) = b := by
      apply BitVec.eq_of_toNat_eq
      simp only [BitVec.toNat_ofNat]
      omega
    simp only [leNat, List.length_cons, leBytes, h1, h2, ih]

/-! ### The signed reading -/

/-- `to_signed_N` is the two's-complement reading (R8). -/
theorem toSigned_eq_toInt {n : Nat} (u : BitVec n) : toSigned u = u.toInt := by
  rw [toSigned, BitVec.toInt_eq_msb_cond]
  split <;> simp

/-! ### Slots -/

@[simp] theorem length_slotBytes (s : Slot) : (slotBytes s).length = 9 := by simp [slotBytes]

/-- SVD of the 9 bytes of a slot decodes that slot. -/
@[simp] theorem svd_slotBytes (ver : Version) (s : Slot) :
    svd ver (slotBytes s) = .decoded (svdSlot ver s) := by
  have h : BitVec.ofNat 64 (leNat (leBytes 8 s.payload.toNat)) = s.payload := by
    rw [leNat_leBytes]
    apply BitVec.eq_of_toNat_eq
    have := s.payload.isLt
    simp only [BitVec.toNat_ofNat]
    omega
  simp [svd, slotBytes, h]

/-- What SVD answers, by the number of bytes (R211). -/
theorem svd_cases (ver : Version) (bs : List Byte) :
    (bs.length ≠ 9 ∧ svd ver bs = .malformed bs.length) ∨
      ∃ s : Slot, slotBytes s = bs ∧ svd ver bs = .decoded (svdSlot ver s) := by
  by_cases h : bs.length = 9
  · obtain ⟨tag, q, rfl⟩ : ∃ tag q, bs = tag :: q := by
      cases bs with
      | nil => simp at h
      | cons t q => exact ⟨t, q, rfl⟩
    have hq : q.length = 8 := by simpa using h
    have hlt := leNat_lt q
    have hs : slotBytes ⟨tag, BitVec.ofNat 64 (leNat q)⟩ = tag :: q := by
      have hn : (BitVec.ofNat 64 (leNat q)).toNat = leNat q := by
        simp only [BitVec.toNat_ofNat]
        rw [hq] at hlt
        exact Nat.mod_eq_of_lt hlt
      rw [slotBytes, hn, ← hq, leBytes_leNat]
    exact .inr ⟨_, hs, by rw [← svd_slotBytes ver, hs]⟩
  · refine .inl ⟨h, ?_⟩
    cases bs with
    | nil => rfl
    | cons t q =>
      have : q.length ≠ 8 := by simpa using h
      simp [svd, this]

/-! ### Instructions -/

/-- The four bytes of the instruction a mnemonic and four bytes stand for are those bytes. -/
@[simp] theorem instrFields_instrOf (m : Mnemonic) (op a b c : Byte) :
    instrFields (instrOf m op a b c) = ⟨some m, op, a, b, c⟩ := by
  cases m
  case jmp => simp [instrOf, instrFields, bits_high_24, bits_mid_24, bits_low_24]
  case loadi => simp [instrOf, instrFields, bits_high_16, bits_low_16]
  all_goals rfl

/-- Decoding a packed word whose opcode byte the registry names (R83). -/
theorem decodeWord_of_some (p : Params) (ver : Version) (m : Mnemonic) (op a b c : Byte)
    (h : opReg p ver op = some m) : decodeWord p ver (packBytes op a b c) = instrOf m op a b c := by
  simp [decodeWord, h]

/-- Decoding a packed word whose opcode byte the registry does not name (R87). -/
theorem decodeWord_of_none (p : Params) (ver : Version) (op a b c : Byte)
    (h : opReg p ver op = none) : decodeWord p ver (packBytes op a b c) = .unknown op a b c := by
  simp [decodeWord, h]

/-- The spelling of a known word (R89). -/
theorem iwdText_known (o : IwdOut) (m : Mnemonic) (h : o.known = true) (hm : mnOfId o.mn = some m) :
    iwdText o = mnName m ++ rolesText o.roles := by
  rw [iwdText, if_pos h, hm]

/-- The spelling of an unknown word (R89). -/
theorem iwdText_unknown (o : IwdOut) (h : o.known = false) :
    iwdText o = unknownText o.op ++ rolesText o.roles := by
  rw [iwdText, h]
  rfl

/-- Whatever the instruction, `exec` answers a next state that differs only in IWD's outputs. -/
theorem exec_next (i : Instr) (s : State) : ∃ o, exec i s = .next (s.driveIwdOut o) := by
  cases i <;> exact ⟨_, rfl⟩

end Sys2Proof.Machine
end

