-- ==== Sys2Proof/Laws/Memory.lean ====
section
/-! SUPPORT. Memory: every operation keeps the canonical form, a read after a write gives the value
written and a write leaves every other offset alone, the image of a byte string holds exactly its bytes,
and `ReadBytes` returns the bytes that exist. -/

namespace Sys2Proof.Machine

/-! ### The canonical form -/

theorem Memory.wfFrom_mono {lo lo' : Nat} (m : List Host.Cell) (h : lo' ≤ lo)
    (hm : Memory.wfFrom lo m = true) : Memory.wfFrom lo' m = true := by
  cases m with
  | nil => rfl
  | cons c rest =>
    simp only [Memory.wfFrom, Bool.and_eq_true, decide_eq_true_eq] at hm ⊢
    exact ⟨⟨by omega, hm.1.2⟩, hm.2⟩

theorem Memory.wfFrom_write (m : List Host.Cell) (lo a : Nat) (v : Byte) (ha : lo ≤ a)
    (hm : Memory.wfFrom lo m = true) : Memory.wfFrom lo (Memory.write m a v) = true := by
  induction m generalizing lo with
  | nil => simp only [Memory.write]; split <;> simp [Memory.wfFrom, *]
  | cons c rest ih =>
    obtain ⟨k, b⟩ := c
    have hm' := hm
    simp only [Memory.wfFrom, Bool.and_eq_true, decide_eq_true_eq] at hm
    obtain ⟨⟨hk, hb⟩, hrest⟩ := hm
    simp only [Memory.write]
    split
    · split
      · exact hm'
      · simp only [Memory.wfFrom, Bool.and_eq_true, decide_eq_true_eq]
        exact ⟨⟨ha, by simpa using ‹¬v = unlistedByte›⟩, ⟨by omega, hb⟩, hrest⟩
    · split
      · split
        · exact Memory.wfFrom_mono rest (by omega) hrest
        · simp only [Memory.wfFrom, Bool.and_eq_true, decide_eq_true_eq]
          exact ⟨⟨ha, by simpa using ‹¬v = unlistedByte›⟩,
            Memory.wfFrom_mono rest (by omega) hrest⟩
      · simp only [Memory.wfFrom, Bool.and_eq_true, decide_eq_true_eq]
        exact ⟨⟨hk, hb⟩, ih (k + 1) (by omega) hrest⟩

/-- A write keeps the canonical form. -/
theorem Memory.wf_write (m : List Host.Cell) (a : Nat) (v : Byte) (hm : Memory.wf m = true) :
    Memory.wf (Memory.write m a v) = true :=
  Memory.wfFrom_write m 0 a v (Nat.zero_le a) hm

theorem Memory.wfFrom_ofBytes (o : Nat) (bs : List Byte) :
    Memory.wfFrom o (Memory.ofBytes o bs) = true := by
  induction bs generalizing o with
  | nil => rfl
  | cons b bs ih =>
    simp only [Memory.ofBytes]
    split
    · exact Memory.wfFrom_mono _ (Nat.le_succ o) (ih (o + 1))
    · simp only [Memory.wfFrom, Bool.and_eq_true, decide_eq_true_eq]
      exact ⟨⟨Nat.le_refl o, by simpa using ‹¬b = unlistedByte›⟩, ih (o + 1)⟩

theorem Memory.ofBytes_below (o : Nat) (bs : List Byte) :
    ∀ c ∈ Memory.ofBytes o bs, c.1 < o + bs.length := by
  induction bs generalizing o with
  | nil => simp [Memory.ofBytes]
  | cons b bs ih =>
    intro c hc
    simp only [Memory.ofBytes] at hc
    have step : c ∈ Memory.ofBytes (o + 1) bs → c.1 < o + (b :: bs).length := fun h => by
      have := ih (o + 1) c h
      simp only [List.length_cons]
      omega
    split at hc
    · exact step hc
    · rcases List.mem_cons.mp hc with rfl | h
      · simp
      · exact step h

/-- The image of a byte string is canonical. -/
theorem Image.wf_ofBytes (bs : List Byte) : (Image.ofBytes bs).wf = true := by
  simp only [Image.wf, Image.ofBytes, Bool.and_eq_true, List.all_eq_true]
  exact ⟨Memory.wfFrom_ofBytes 0 bs, fun c hc => decide_eq_true
    (Nat.zero_add bs.length ▸ Memory.ofBytes_below 0 bs c hc)⟩

theorem Memory.mem_write (m : List Host.Cell) (a : Nat) (v : Byte) :
    ∀ c ∈ Memory.write m a v, c.1 = a ∨ c ∈ m := by
  induction m with
  | nil =>
    intro c hc
    simp only [Memory.write] at hc
    split at hc
    · simp at hc
    · exact .inl (by simp at hc; simp [hc])
  | cons d rest ih =>
    obtain ⟨k, b⟩ := d
    intro c hc
    simp only [Memory.write] at hc
    split at hc
    · split at hc
      · exact .inr hc
      · rcases List.mem_cons.mp hc with rfl | h
        · exact .inl rfl
        · exact .inr h
    · split at hc
      · split at hc
        · exact .inr (List.mem_cons_of_mem _ hc)
        · rcases List.mem_cons.mp hc with rfl | h
          · exact .inl rfl
          · exact .inr (List.mem_cons_of_mem _ h)
      · rcases List.mem_cons.mp hc with rfl | h
        · exact .inr (List.mem_cons_self ..)
        · rcases ih c h with h | h
          · exact .inl h
          · exact .inr (List.mem_cons_of_mem _ h)

/-- Placing a byte keeps the canonical form of an image. -/
theorem Image.wf_setByte (img : Image) (o : Nat) (v : Byte) (h : img.wf = true) :
    (img.setByte o v).wf = true := by
  simp only [Image.wf, Image.setByte, Bool.and_eq_true, List.all_eq_true] at h ⊢
  refine ⟨Memory.wf_write _ _ _ h.1, fun c hc => decide_eq_true ?_⟩
  rcases Memory.mem_write _ _ _ c hc with hc | hc
  · exact hc ▸ Nat.lt_of_lt_of_le (Nat.lt_succ_self _) (Nat.le_max_right ..)
  · exact Nat.lt_of_lt_of_le (of_decide_eq_true (h.2 c hc)) (Nat.le_max_left ..)

/-- Placing bytes keeps the canonical form of an image. -/
theorem Image.wf_setBytes (img : Image) (o : Nat) (bs : List Byte) (h : img.wf = true) :
    (img.setBytes o bs).wf = true := by
  induction bs generalizing img o with
  | nil => exact h
  | cons b bs ih => exact ih _ _ (Image.wf_setByte img o b h)

/-- The empty image is canonical. -/
theorem Image.wf_empty : (⟨0, []⟩ : Image).wf = true := rfl

/-! ### Reading after writing -/

theorem Memory.read_of_wfFrom (m : List Host.Cell) (lo a : Nat) (ha : a < lo)
    (hm : Memory.wfFrom lo m = true) : Memory.read m a = unlistedByte := by
  induction m generalizing lo with
  | nil => rfl
  | cons c rest ih =>
    obtain ⟨k, b⟩ := c
    simp only [Memory.wfFrom, Bool.and_eq_true, decide_eq_true_eq] at hm
    rw [Memory.read, if_neg (by omega)]
    exact ih (k + 1) (by omega) hm.2

theorem Memory.read_writeFrom (m : List Host.Cell) (lo a x : Nat) (v : Byte)
    (hm : Memory.wfFrom lo m = true) :
    Memory.read (Memory.write m a v) x = if x = a then v else Memory.read m x := by
  induction m generalizing lo with
  | nil =>
    simp only [Memory.write]
    split
    · split <;> simp [Memory.read, *]
    · simp only [Memory.read]
      split <;> split <;> simp_all
  | cons c rest ih =>
    obtain ⟨k, b⟩ := c
    have hm' := hm
    simp only [Memory.wfFrom, Bool.and_eq_true, decide_eq_true_eq] at hm
    have hrest := ih (k + 1) hm.2
    simp only [Memory.write]
    split
    · have hz : Memory.read ((k, b) :: rest) a = unlistedByte :=
        Memory.read_of_wfFrom _ k a (by assumption) (by
          simp only [Memory.wfFrom, Bool.and_eq_true, decide_eq_true_eq]
          exact ⟨⟨Nat.le_refl k, hm.1.2⟩, hm.2⟩)
      split
      · split
        · subst x; rw [hz]; exact Eq.symm ‹_›
        · rfl
      · rw [Memory.read]
        by_cases hx : a = x
        · simp [hx]
        · rw [if_neg hx, if_neg (fun h => hx h.symm)]
    · split
      · subst a
        have hz : Memory.read rest k = unlistedByte :=
          Memory.read_of_wfFrom rest (k + 1) k (Nat.lt_succ_self k) hm.2
        by_cases hx : k = x
        · subst x
          split <;> simp [Memory.read, *]
        · split <;> simp [Memory.read, hx, Ne.symm hx]
      · rw [Memory.read, hrest, Memory.read]
        by_cases hk : k = x
        · rw [if_pos hk, if_neg (by omega), if_pos hk]
        · rw [if_neg hk, if_neg hk]

/-- A read after a write to a canonical list: the value written there, the old value elsewhere. -/
theorem Memory.read_write (m : List Host.Cell) (a x : Nat) (v : Byte)
    (hm : Memory.wf m = true) :
    Memory.read (Memory.write m a v) x = if x = a then v else Memory.read m x :=
  Memory.read_writeFrom m 0 a x v hm

theorem Memory.read_ofBytes (o : Nat) (bs : List Byte) (i : Nat) (b : Byte)
    (h : bs[i]? = some b) : Memory.read (Memory.ofBytes o bs) (o + i) = b := by
  induction bs generalizing o i with
  | nil => simp at h
  | cons d bs ih =>
    simp only [Memory.ofBytes]
    cases i with
    | zero =>
      simp only [List.getElem?_cons_zero, Option.some.injEq] at h
      subst d
      split
      · rw [Memory.read_of_wfFrom _ (o + 1) _ (by omega) (Memory.wfFrom_ofBytes _ _)]
        exact Eq.symm ‹_›
      · simp [Memory.read]
    | succ j =>
      have e : o + (j + 1) = (o + 1) + j := by omega
      rw [List.getElem?_cons_succ] at h
      split
      · rw [e]; exact ih (o + 1) j h
      · rw [Memory.read, if_neg (by omega), e]; exact ih (o + 1) j h

/-- The image of a byte string holds exactly the string. -/
theorem Image.byteAt_ofBytes (bs : List Byte) (a : Nat) : (Image.ofBytes bs).byteAt a = bs[a]? := by
  by_cases h : a < bs.length
  · have := Memory.read_ofBytes 0 bs a _ (List.getElem?_eq_getElem h)
    rw [Nat.zero_add] at this
    rw [List.getElem?_eq_getElem h, ← this]
    exact if_pos h
  · rw [List.getElem?_eq_none (by omega)]
    exact if_neg h

/-- The byte at an offset after one byte was placed. -/
theorem Image.byteAt_setByte (img : Image) (o a : Nat) (v : Byte) (h : img.wf = true) :
    (img.setByte o v).byteAt a =
      if a = o then some v else if a < max img.len (o + 1) then some (Memory.read img.cells a)
      else none := by
  have hm : Memory.wf img.cells = true := by
    simp only [Image.wf, Bool.and_eq_true] at h
    exact h.1
  simp only [Image.byteAt, Image.setByte, Memory.read_write _ _ _ _ hm]
  by_cases ha : a = o
  · simp [ha, show o < max img.len (o + 1) by omega]
  · simp [ha]

/-- Bytes placed from `o` on leave the bytes below `o` alone. -/
theorem Image.byteAt_setBytes_below (img : Image) (o a : Nat) (bs : List Byte) (h : img.wf = true)
    (ha : a < o) (hl : a < img.len) : (img.setBytes o bs).byteAt a = img.byteAt a := by
  induction bs generalizing img o with
  | nil => rfl
  | cons b bs ih =>
    rw [Image.setBytes, ih _ _ (Image.wf_setByte img o b h) (by omega)
      (by simp only [Image.setByte]; omega), Image.byteAt_setByte _ _ _ _ h,
      if_neg (by omega), if_pos (by omega), Image.byteAt, if_pos hl]

/-- Bytes placed from `o` on are read back. -/
theorem Image.byteAt_setBytes (img : Image) (o i : Nat) (bs : List Byte) (b : Byte)
    (h : img.wf = true) (hb : bs[i]? = some b) : (img.setBytes o bs).byteAt (o + i) = some b := by
  induction bs generalizing img o i with
  | nil => simp at hb
  | cons d bs ih =>
    rw [Image.setBytes]
    have hw := Image.wf_setByte img o d h
    cases i with
    | zero =>
      simp only [List.getElem?_cons_zero, Option.some.injEq] at hb
      subst d
      rw [Nat.add_zero, Image.byteAt_setBytes_below _ _ _ _ hw (by omega)
        (by simp only [Image.setByte]; omega), Image.byteAt_setByte _ _ _ _ h,
        if_pos (Nat.add_zero o)]
    | succ j =>
      rw [show o + (j + 1) = (o + 1) + j by omega]
      exact ih _ (o + 1) j hw (by simpa using hb)

/-! ### ReadBytes -/

/-- `ReadBytes(o, n)` returns the bytes that exist, at most `n` of them (R9). -/
theorem Image.length_readBytes (img : Image) (o n : Nat) :
    (img.readBytes o n).length = min n (img.len - o) := by
  induction n generalizing o with
  | zero => simp [Image.readBytes]
  | succ n ih =>
    rw [Image.readBytes, Image.byteAt]
    by_cases h : o < img.len
    · simp only [if_pos h, List.length_cons, ih]
      omega
    · simp only [if_neg h, List.length_nil]
      omega

/-- Byte `i` of `ReadBytes(o, n)` is the image's byte at `o + i`. -/
theorem Image.getElem?_readBytes (img : Image) (o n i : Nat) (h : i < n) :
    (img.readBytes o n)[i]? = img.byteAt (o + i) := by
  induction n generalizing o i with
  | zero => omega
  | succ n ih =>
    rw [Image.readBytes]
    cases hb : img.byteAt o with
    | none =>
      have : ¬o < img.len := fun hl => by simp [Image.byteAt, hl] at hb
      have hn : ¬o + i < img.len := by omega
      simp [Image.byteAt, hn]
    | some b =>
      cases i with
      | zero => simpa using hb.symm
      | succ j =>
        rw [List.getElem?_cons_succ, ih (o + 1) j (by omega)]
        congr 1
        omega

/-- `ReadBytes` on the image of a byte string cuts the string. -/
theorem Image.readBytes_ofBytes (bs : List Byte) (o n : Nat) :
    (Image.ofBytes bs).readBytes o n = (bs.drop o).take n := by
  apply List.ext_getElem?
  intro i
  by_cases h : i < n
  · rw [Image.getElem?_readBytes _ _ _ _ h, Image.byteAt_ofBytes, List.getElem?_take_of_lt h,
      List.getElem?_drop]
  · rw [List.getElem?_eq_none, List.getElem?_eq_none]
    · simp only [List.length_take]; omega
    · rw [Image.length_readBytes]; omega

/-- `ReadBytes` after bytes were placed there gives them back. -/
theorem Image.readBytes_setBytes (img : Image) (o : Nat) (bs : List Byte) (h : img.wf = true) :
    (img.setBytes o bs).readBytes o bs.length = bs := by
  apply List.ext_getElem?
  intro i
  by_cases hi : i < bs.length
  · rw [Image.getElem?_readBytes _ _ _ _ hi,
      Image.byteAt_setBytes img o i bs bs[i] h (List.getElem?_eq_getElem hi),
      List.getElem?_eq_getElem hi]
  · rw [List.getElem?_eq_none, List.getElem?_eq_none (by omega)]
    rw [Image.length_readBytes]
    omega

/-- Two images that agree on the bytes from `o` to `o + n` give the same `ReadBytes`. -/
theorem Image.readBytes_congr (img img' : Image) (o n : Nat)
    (h : ∀ a, o ≤ a → a < o + n → img.byteAt a = img'.byteAt a) :
    img.readBytes o n = img'.readBytes o n := by
  induction n generalizing o with
  | zero => rfl
  | succ n ih =>
    rw [Image.readBytes, Image.readBytes, h o (Nat.le_refl o) (by omega),
      ih (o + 1) fun a h1 h2 => h a (by omega) (by omega)]

end Sys2Proof.Machine
end

