-- ==== Sys2Proof/Laws/State.lean ====
section
/-! SUPPORT. One lemma per field of the state for each update of Machine/Ops.lean, so that no proof
unfolds a record update. -/

namespace Sys2Proof.Machine

@[simp] theorem State.driveIwdIn_params (s : State) (iw : Word) (ver : Version) :
    (s.driveIwdIn iw ver).params = s.params := rfl
@[simp] theorem State.driveIwdIn_requests (s : State) (iw : Word) (ver : Version) :
    (s.driveIwdIn iw ver).requests = s.requests := rfl
@[simp] theorem State.driveIwdIn_reading (s : State) (iw : Word) (ver : Version) :
    (s.driveIwdIn iw ver).reading = s.reading := rfl
@[simp] theorem State.driveIwdIn_iwdIn (s : State) (iw : Word) (ver : Version) :
    (s.driveIwdIn iw ver).iwdIn = ⟨iw, ver⟩ := rfl
@[simp] theorem State.driveIwdIn_iwdOut (s : State) (iw : Word) (ver : Version) :
    (s.driveIwdIn iw ver).iwdOut = s.iwdOut := rfl
@[simp] theorem State.driveIwdIn_svdIn (s : State) (iw : Word) (ver : Version) :
    (s.driveIwdIn iw ver).svdIn = s.svdIn := rfl
@[simp] theorem State.driveIwdIn_svdOut (s : State) (iw : Word) (ver : Version) :
    (s.driveIwdIn iw ver).svdOut = s.svdOut := rfl
@[simp] theorem State.driveIwdIn_iweIn (s : State) (iw : Word) (ver : Version) :
    (s.driveIwdIn iw ver).iweIn = s.iweIn := rfl
@[simp] theorem State.driveIwdIn_iweOut (s : State) (iw : Word) (ver : Version) :
    (s.driveIwdIn iw ver).iweOut = s.iweOut := rfl
@[simp] theorem State.driveIwdIn_sveIn (s : State) (iw : Word) (ver : Version) :
    (s.driveIwdIn iw ver).sveIn = s.sveIn := rfl
@[simp] theorem State.driveIwdIn_sveOut (s : State) (iw : Word) (ver : Version) :
    (s.driveIwdIn iw ver).sveOut = s.sveOut := rfl
@[simp] theorem State.driveIwdIn_status (s : State) (iw : Word) (ver : Version) :
    (s.driveIwdIn iw ver).status = s.status := rfl
@[simp] theorem State.driveIwdIn_reports (s : State) (iw : Word) (ver : Version) :
    (s.driveIwdIn iw ver).reports = s.reports := rfl

@[simp] theorem State.driveIwdOut_params (s : State) (o : IwdOut) :
    (s.driveIwdOut o).params = s.params := rfl
@[simp] theorem State.driveIwdOut_requests (s : State) (o : IwdOut) :
    (s.driveIwdOut o).requests = s.requests := rfl
@[simp] theorem State.driveIwdOut_reading (s : State) (o : IwdOut) :
    (s.driveIwdOut o).reading = s.reading := rfl
@[simp] theorem State.driveIwdOut_iwdIn (s : State) (o : IwdOut) :
    (s.driveIwdOut o).iwdIn = s.iwdIn := rfl
@[simp] theorem State.driveIwdOut_iwdOut (s : State) (o : IwdOut) :
    (s.driveIwdOut o).iwdOut = o := rfl
@[simp] theorem State.driveIwdOut_svdIn (s : State) (o : IwdOut) :
    (s.driveIwdOut o).svdIn = s.svdIn := rfl
@[simp] theorem State.driveIwdOut_svdOut (s : State) (o : IwdOut) :
    (s.driveIwdOut o).svdOut = s.svdOut := rfl
@[simp] theorem State.driveIwdOut_iweIn (s : State) (o : IwdOut) :
    (s.driveIwdOut o).iweIn = s.iweIn := rfl
@[simp] theorem State.driveIwdOut_iweOut (s : State) (o : IwdOut) :
    (s.driveIwdOut o).iweOut = s.iweOut := rfl
@[simp] theorem State.driveIwdOut_sveIn (s : State) (o : IwdOut) :
    (s.driveIwdOut o).sveIn = s.sveIn := rfl
@[simp] theorem State.driveIwdOut_sveOut (s : State) (o : IwdOut) :
    (s.driveIwdOut o).sveOut = s.sveOut := rfl
@[simp] theorem State.driveIwdOut_status (s : State) (o : IwdOut) :
    (s.driveIwdOut o).status = s.status := rfl
@[simp] theorem State.driveIwdOut_reports (s : State) (o : IwdOut) :
    (s.driveIwdOut o).reports = s.reports := rfl

@[simp] theorem State.driveSvd_params (s : State) (bytes : List Byte) (ver : Version) :
    (s.driveSvd bytes ver).params = s.params := rfl
@[simp] theorem State.driveSvd_requests (s : State) (bytes : List Byte) (ver : Version) :
    (s.driveSvd bytes ver).requests = s.requests := rfl
@[simp] theorem State.driveSvd_reading (s : State) (bytes : List Byte) (ver : Version) :
    (s.driveSvd bytes ver).reading = s.reading := rfl
@[simp] theorem State.driveSvd_iwdIn (s : State) (bytes : List Byte) (ver : Version) :
    (s.driveSvd bytes ver).iwdIn = s.iwdIn := rfl
@[simp] theorem State.driveSvd_iwdOut (s : State) (bytes : List Byte) (ver : Version) :
    (s.driveSvd bytes ver).iwdOut = s.iwdOut := rfl
@[simp] theorem State.driveSvd_svdIn (s : State) (bytes : List Byte) (ver : Version) :
    (s.driveSvd bytes ver).svdIn = ⟨bytes, ver⟩ := rfl
@[simp] theorem State.driveSvd_svdOut (s : State) (bytes : List Byte) (ver : Version) :
    (s.driveSvd bytes ver).svdOut = svd ver bytes := rfl
@[simp] theorem State.driveSvd_iweIn (s : State) (bytes : List Byte) (ver : Version) :
    (s.driveSvd bytes ver).iweIn = s.iweIn := rfl
@[simp] theorem State.driveSvd_iweOut (s : State) (bytes : List Byte) (ver : Version) :
    (s.driveSvd bytes ver).iweOut = s.iweOut := rfl
@[simp] theorem State.driveSvd_sveIn (s : State) (bytes : List Byte) (ver : Version) :
    (s.driveSvd bytes ver).sveIn = s.sveIn := rfl
@[simp] theorem State.driveSvd_sveOut (s : State) (bytes : List Byte) (ver : Version) :
    (s.driveSvd bytes ver).sveOut = s.sveOut := rfl
@[simp] theorem State.driveSvd_status (s : State) (bytes : List Byte) (ver : Version) :
    (s.driveSvd bytes ver).status = s.status := rfl
@[simp] theorem State.driveSvd_reports (s : State) (bytes : List Byte) (ver : Version) :
    (s.driveSvd bytes ver).reports = s.reports := rfl

@[simp] theorem State.driveIwe_params (s : State) (i : IweIn) (iw : Word) :
    (s.driveIwe i iw).params = s.params := rfl
@[simp] theorem State.driveIwe_requests (s : State) (i : IweIn) (iw : Word) :
    (s.driveIwe i iw).requests = s.requests := rfl
@[simp] theorem State.driveIwe_reading (s : State) (i : IweIn) (iw : Word) :
    (s.driveIwe i iw).reading = s.reading := rfl
@[simp] theorem State.driveIwe_iwdIn (s : State) (i : IweIn) (iw : Word) :
    (s.driveIwe i iw).iwdIn = s.iwdIn := rfl
@[simp] theorem State.driveIwe_iwdOut (s : State) (i : IweIn) (iw : Word) :
    (s.driveIwe i iw).iwdOut = s.iwdOut := rfl
@[simp] theorem State.driveIwe_svdIn (s : State) (i : IweIn) (iw : Word) :
    (s.driveIwe i iw).svdIn = s.svdIn := rfl
@[simp] theorem State.driveIwe_svdOut (s : State) (i : IweIn) (iw : Word) :
    (s.driveIwe i iw).svdOut = s.svdOut := rfl
@[simp] theorem State.driveIwe_iweIn (s : State) (i : IweIn) (iw : Word) :
    (s.driveIwe i iw).iweIn = i := rfl
@[simp] theorem State.driveIwe_iweOut (s : State) (i : IweIn) (iw : Word) :
    (s.driveIwe i iw).iweOut = iw := rfl
@[simp] theorem State.driveIwe_sveIn (s : State) (i : IweIn) (iw : Word) :
    (s.driveIwe i iw).sveIn = s.sveIn := rfl
@[simp] theorem State.driveIwe_sveOut (s : State) (i : IweIn) (iw : Word) :
    (s.driveIwe i iw).sveOut = s.sveOut := rfl
@[simp] theorem State.driveIwe_status (s : State) (i : IweIn) (iw : Word) :
    (s.driveIwe i iw).status = s.status := rfl
@[simp] theorem State.driveIwe_reports (s : State) (i : IweIn) (iw : Word) :
    (s.driveIwe i iw).reports = s.reports := rfl

@[simp] theorem State.driveSve_params (s : State) (ver : Version) (v : Value) (slot : Slot) :
    (s.driveSve ver v slot).params = s.params := rfl
@[simp] theorem State.driveSve_requests (s : State) (ver : Version) (v : Value) (slot : Slot) :
    (s.driveSve ver v slot).requests = s.requests := rfl
@[simp] theorem State.driveSve_reading (s : State) (ver : Version) (v : Value) (slot : Slot) :
    (s.driveSve ver v slot).reading = s.reading := rfl
@[simp] theorem State.driveSve_iwdIn (s : State) (ver : Version) (v : Value) (slot : Slot) :
    (s.driveSve ver v slot).iwdIn = s.iwdIn := rfl
@[simp] theorem State.driveSve_iwdOut (s : State) (ver : Version) (v : Value) (slot : Slot) :
    (s.driveSve ver v slot).iwdOut = s.iwdOut := rfl
@[simp] theorem State.driveSve_svdIn (s : State) (ver : Version) (v : Value) (slot : Slot) :
    (s.driveSve ver v slot).svdIn = s.svdIn := rfl
@[simp] theorem State.driveSve_svdOut (s : State) (ver : Version) (v : Value) (slot : Slot) :
    (s.driveSve ver v slot).svdOut = s.svdOut := rfl
@[simp] theorem State.driveSve_iweIn (s : State) (ver : Version) (v : Value) (slot : Slot) :
    (s.driveSve ver v slot).iweIn = s.iweIn := rfl
@[simp] theorem State.driveSve_iweOut (s : State) (ver : Version) (v : Value) (slot : Slot) :
    (s.driveSve ver v slot).iweOut = s.iweOut := rfl
@[simp] theorem State.driveSve_sveIn (s : State) (ver : Version) (v : Value) (slot : Slot) :
    (s.driveSve ver v slot).sveIn = ⟨ver, v⟩ := rfl
@[simp] theorem State.driveSve_sveOut (s : State) (ver : Version) (v : Value) (slot : Slot) :
    (s.driveSve ver v slot).sveOut = slot := rfl
@[simp] theorem State.driveSve_status (s : State) (ver : Version) (v : Value) (slot : Slot) :
    (s.driveSve ver v slot).status = s.status := rfl
@[simp] theorem State.driveSve_reports (s : State) (ver : Version) (v : Value) (slot : Slot) :
    (s.driveSve ver v slot).reports = s.reports := rfl

@[simp] theorem State.complete_params (s : State) (r : Report) :
    (s.complete r).params = s.params := rfl
@[simp] theorem State.complete_requests (s : State) (r : Report) :
    (s.complete r).requests = s.requests := rfl
@[simp] theorem State.complete_reading (s : State) (r : Report) :
    (s.complete r).reading = none := rfl
@[simp] theorem State.complete_iwdIn (s : State) (r : Report) :
    (s.complete r).iwdIn = s.iwdIn := rfl
@[simp] theorem State.complete_iwdOut (s : State) (r : Report) :
    (s.complete r).iwdOut = s.iwdOut := rfl
@[simp] theorem State.complete_svdIn (s : State) (r : Report) :
    (s.complete r).svdIn = s.svdIn := rfl
@[simp] theorem State.complete_svdOut (s : State) (r : Report) :
    (s.complete r).svdOut = s.svdOut := rfl
@[simp] theorem State.complete_iweIn (s : State) (r : Report) :
    (s.complete r).iweIn = s.iweIn := rfl
@[simp] theorem State.complete_iweOut (s : State) (r : Report) :
    (s.complete r).iweOut = s.iweOut := rfl
@[simp] theorem State.complete_sveIn (s : State) (r : Report) :
    (s.complete r).sveIn = s.sveIn := rfl
@[simp] theorem State.complete_sveOut (s : State) (r : Report) :
    (s.complete r).sveOut = s.sveOut := rfl
@[simp] theorem State.complete_status (s : State) (r : Report) :
    (s.complete r).status = none := rfl
@[simp] theorem State.complete_reports (s : State) (r : Report) :
    (s.complete r).reports = s.reports ++ [r] := rfl

@[simp] theorem State.raise_params (s : State) (c : Condition) :
    (s.raise c).params = s.params := rfl
@[simp] theorem State.raise_requests (s : State) (c : Condition) :
    (s.raise c).requests = s.requests := rfl
@[simp] theorem State.raise_reading (s : State) (c : Condition) :
    (s.raise c).reading = none := rfl
@[simp] theorem State.raise_iwdIn (s : State) (c : Condition) :
    (s.raise c).iwdIn = s.iwdIn := rfl
@[simp] theorem State.raise_iwdOut (s : State) (c : Condition) :
    (s.raise c).iwdOut = s.iwdOut := rfl
@[simp] theorem State.raise_svdIn (s : State) (c : Condition) :
    (s.raise c).svdIn = s.svdIn := rfl
@[simp] theorem State.raise_svdOut (s : State) (c : Condition) :
    (s.raise c).svdOut = s.svdOut := rfl
@[simp] theorem State.raise_iweIn (s : State) (c : Condition) :
    (s.raise c).iweIn = s.iweIn := rfl
@[simp] theorem State.raise_iweOut (s : State) (c : Condition) :
    (s.raise c).iweOut = s.iweOut := rfl
@[simp] theorem State.raise_sveIn (s : State) (c : Condition) :
    (s.raise c).sveIn = s.sveIn := rfl
@[simp] theorem State.raise_sveOut (s : State) (c : Condition) :
    (s.raise c).sveOut = s.sveOut := rfl
@[simp] theorem State.raise_status (s : State) (c : Condition) :
    (s.raise c).status = some c := rfl
@[simp] theorem State.raise_reports (s : State) (c : Condition) :
    (s.raise c).reports = s.reports ++ [.raised c] := rfl

@[simp] theorem State.startReading_params (s : State) (img : Image) (h : Header) :
    (s.startReading img h).params = s.params := rfl
@[simp] theorem State.startReading_requests (s : State) (img : Image) (h : Header) :
    (s.startReading img h).requests = s.requests := rfl
@[simp] theorem State.startReading_reading (s : State) (img : Image) (h : Header) :
    (s.startReading img h).reading = some ⟨img, h, [], [], []⟩ := rfl
@[simp] theorem State.startReading_iwdIn (s : State) (img : Image) (h : Header) :
    (s.startReading img h).iwdIn = s.iwdIn := rfl
@[simp] theorem State.startReading_iwdOut (s : State) (img : Image) (h : Header) :
    (s.startReading img h).iwdOut = s.iwdOut := rfl
@[simp] theorem State.startReading_svdIn (s : State) (img : Image) (h : Header) :
    (s.startReading img h).svdIn = s.svdIn := rfl
@[simp] theorem State.startReading_svdOut (s : State) (img : Image) (h : Header) :
    (s.startReading img h).svdOut = s.svdOut := rfl
@[simp] theorem State.startReading_iweIn (s : State) (img : Image) (h : Header) :
    (s.startReading img h).iweIn = s.iweIn := rfl
@[simp] theorem State.startReading_iweOut (s : State) (img : Image) (h : Header) :
    (s.startReading img h).iweOut = s.iweOut := rfl
@[simp] theorem State.startReading_sveIn (s : State) (img : Image) (h : Header) :
    (s.startReading img h).sveIn = s.sveIn := rfl
@[simp] theorem State.startReading_sveOut (s : State) (img : Image) (h : Header) :
    (s.startReading img h).sveOut = s.sveOut := rfl
@[simp] theorem State.startReading_status (s : State) (img : Image) (h : Header) :
    (s.startReading img h).status = none := rfl
@[simp] theorem State.startReading_reports (s : State) (img : Image) (h : Header) :
    (s.startReading img h).reports = s.reports := rfl

@[simp] theorem State.recordWord_params (s : State) (r : Reading) :
    (s.recordWord r).params = s.params := rfl
@[simp] theorem State.recordWord_requests (s : State) (r : Reading) :
    (s.recordWord r).requests = s.requests := rfl
@[simp] theorem State.recordWord_reading (s : State) (r : Reading) :
    (s.recordWord r).reading = some { r with words := r.words ++ [⟨r.words.length, s.iwdOut⟩] } := rfl
@[simp] theorem State.recordWord_iwdIn (s : State) (r : Reading) :
    (s.recordWord r).iwdIn = s.iwdIn := rfl
@[simp] theorem State.recordWord_iwdOut (s : State) (r : Reading) :
    (s.recordWord r).iwdOut = s.iwdOut := rfl
@[simp] theorem State.recordWord_svdIn (s : State) (r : Reading) :
    (s.recordWord r).svdIn = s.svdIn := rfl
@[simp] theorem State.recordWord_svdOut (s : State) (r : Reading) :
    (s.recordWord r).svdOut = s.svdOut := rfl
@[simp] theorem State.recordWord_iweIn (s : State) (r : Reading) :
    (s.recordWord r).iweIn = s.iweIn := rfl
@[simp] theorem State.recordWord_iweOut (s : State) (r : Reading) :
    (s.recordWord r).iweOut = s.iweOut := rfl
@[simp] theorem State.recordWord_sveIn (s : State) (r : Reading) :
    (s.recordWord r).sveIn = s.sveIn := rfl
@[simp] theorem State.recordWord_sveOut (s : State) (r : Reading) :
    (s.recordWord r).sveOut = s.sveOut := rfl
@[simp] theorem State.recordWord_status (s : State) (r : Reading) :
    (s.recordWord r).status = s.status := rfl
@[simp] theorem State.recordWord_reports (s : State) (r : Reading) :
    (s.recordWord r).reports = s.reports := rfl

@[simp] theorem State.placeWord_params (s : State) (w : Word) :
    (s.placeWord w).params = s.params := rfl
@[simp] theorem State.placeWord_requests (s : State) (w : Word) :
    (s.placeWord w).requests = s.requests := rfl
@[simp] theorem State.placeWord_reading (s : State) (w : Word) :
    (s.placeWord w).reading = some
    { s.fetchReading with
      image := s.fetchReading.image.setBytes (wordOffset s.fetchReading.words.length)
        (wordBytes s.params.wordOrder w) } := rfl
@[simp] theorem State.placeWord_iwdIn (s : State) (w : Word) :
    (s.placeWord w).iwdIn = s.iwdIn := rfl
@[simp] theorem State.placeWord_iwdOut (s : State) (w : Word) :
    (s.placeWord w).iwdOut = s.iwdOut := rfl
@[simp] theorem State.placeWord_svdIn (s : State) (w : Word) :
    (s.placeWord w).svdIn = s.svdIn := rfl
@[simp] theorem State.placeWord_svdOut (s : State) (w : Word) :
    (s.placeWord w).svdOut = s.svdOut := rfl
@[simp] theorem State.placeWord_iweIn (s : State) (w : Word) :
    (s.placeWord w).iweIn = s.iweIn := rfl
@[simp] theorem State.placeWord_iweOut (s : State) (w : Word) :
    (s.placeWord w).iweOut = s.iweOut := rfl
@[simp] theorem State.placeWord_sveIn (s : State) (w : Word) :
    (s.placeWord w).sveIn = s.sveIn := rfl
@[simp] theorem State.placeWord_sveOut (s : State) (w : Word) :
    (s.placeWord w).sveOut = s.sveOut := rfl
@[simp] theorem State.placeWord_status (s : State) (w : Word) :
    (s.placeWord w).status = s.status := rfl
@[simp] theorem State.placeWord_reports (s : State) (w : Word) :
    (s.placeWord w).reports = s.reports := rfl

@[simp] theorem State.recordSlot_params (s : State) (r : Reading) (pool : Pool) (o : SvdOut) :
    (s.recordSlot r pool o).params = s.params := by cases pool <;> rfl
@[simp] theorem State.recordSlot_requests (s : State) (r : Reading) (pool : Pool) (o : SvdOut) :
    (s.recordSlot r pool o).requests = s.requests := by cases pool <;> rfl
@[simp] theorem State.recordSlot_iwdIn (s : State) (r : Reading) (pool : Pool) (o : SvdOut) :
    (s.recordSlot r pool o).iwdIn = s.iwdIn := by cases pool <;> rfl
@[simp] theorem State.recordSlot_iwdOut (s : State) (r : Reading) (pool : Pool) (o : SvdOut) :
    (s.recordSlot r pool o).iwdOut = s.iwdOut := by cases pool <;> rfl
@[simp] theorem State.recordSlot_svdIn (s : State) (r : Reading) (pool : Pool) (o : SvdOut) :
    (s.recordSlot r pool o).svdIn = s.svdIn := by cases pool <;> rfl
@[simp] theorem State.recordSlot_svdOut (s : State) (r : Reading) (pool : Pool) (o : SvdOut) :
    (s.recordSlot r pool o).svdOut = s.svdOut := by cases pool <;> rfl
@[simp] theorem State.recordSlot_iweIn (s : State) (r : Reading) (pool : Pool) (o : SvdOut) :
    (s.recordSlot r pool o).iweIn = s.iweIn := by cases pool <;> rfl
@[simp] theorem State.recordSlot_iweOut (s : State) (r : Reading) (pool : Pool) (o : SvdOut) :
    (s.recordSlot r pool o).iweOut = s.iweOut := by cases pool <;> rfl
@[simp] theorem State.recordSlot_sveIn (s : State) (r : Reading) (pool : Pool) (o : SvdOut) :
    (s.recordSlot r pool o).sveIn = s.sveIn := by cases pool <;> rfl
@[simp] theorem State.recordSlot_sveOut (s : State) (r : Reading) (pool : Pool) (o : SvdOut) :
    (s.recordSlot r pool o).sveOut = s.sveOut := by cases pool <;> rfl
@[simp] theorem State.recordSlot_status (s : State) (r : Reading) (pool : Pool) (o : SvdOut) :
    (s.recordSlot r pool o).status = s.status := by cases pool <;> rfl
@[simp] theorem State.recordSlot_reports (s : State) (r : Reading) (pool : Pool) (o : SvdOut) :
    (s.recordSlot r pool o).reports = s.reports := by cases pool <;> rfl
@[simp] theorem State.recordSlot_const_reading (s : State) (r : Reading) (o : SvdOut) :
    (s.recordSlot r .const o).reading =
      some { r with consts := r.consts ++ [⟨.const, r.consts.length, o⟩] } := rfl
@[simp] theorem State.recordSlot_global_reading (s : State) (r : Reading) (o : SvdOut) :
    (s.recordSlot r .global o).reading =
      some { r with globals := r.globals ++ [⟨.global, r.globals.length, o⟩] } := rfl

@[simp] theorem Reading.entries_const (r : Reading) : r.entries .const = r.consts := rfl
@[simp] theorem Reading.entries_global (r : Reading) : r.entries .global = r.globals := rfl

end Sys2Proof.Machine
end

