-- ==== Sys2Proof/Laws/Ops.lean ====
section
/-! SUPPORT. What each shared operation, each request and each step can do, said once: the lemmas to cite
instead of unfolding the step. -/

namespace Sys2Proof.Machine

/-! ### The header -/

/-- What reading a header gives: one of the two conditions, or the header (R48, R251, R253). -/
theorem readHeader_cases (p : Params) (img : Image) :
    (img.len < 20 ∧ readHeader p img = .error (.truncatedHeader img.len)) ∨
      (20 ≤ img.len ∧ p.strictMagic = true ∧ img.magic ≠ p.magic ∧
        readHeader p img = .error (.badMagic img.magic)) ∨
      (20 ≤ img.len ∧ (p.strictMagic = false ∨ img.magic = p.magic) ∧
        readHeader p img = .ok img.header) := by
  by_cases h : img.len < 20
  · exact .inl ⟨h, if_pos h⟩
  · have h' : ¬img.len < headerBytes := h
    by_cases hs : p.strictMagic = true
    · by_cases hm : img.magic = p.magic
      · exact .inr (.inr ⟨by omega, .inr hm, by simp [readHeader, h', hm]⟩)
      · exact .inr (.inl ⟨by omega, hs, hm, by simp [readHeader, h', hs, hm]⟩)
    · exact .inr (.inr ⟨by omega, .inl (by simpa using hs), by simp [readHeader, h', hs]⟩)

/-! ### Bytes of words and slots in an image -/

/-- The four bytes of word `i`, where the image is long enough (R45). -/
theorem readBytes_word (img : Image) (o : Nat) (h : o + 4 ≤ img.len) :
    ∃ b0 b1 b2 b3, img.readBytes o 4 = [b0, b1, b2, b3] := by
  have hl := Image.length_readBytes img o 4
  rw [Nat.min_eq_left (by omega)] at hl
  match hb : img.readBytes o 4, hl with
  | [b0, b1, b2, b3], _ => exact ⟨b0, b1, b2, b3, rfl⟩

/-- Fewer than four bytes are read exactly where the image ends inside the word. -/
theorem readBytes_word_short (img : Image) (o : Nat) (h : img.len < o + 4) :
    (img.readBytes o 4).length = img.len - o ∧ (img.readBytes o 4).length < 4 := by
  rw [Image.length_readBytes]
  omega

/-! ### IWD in a step -/

/-- Presenting a word to IWD answers a next state: its input ports are the word and the version, its
outputs are driven, nothing else changes. -/
theorem runWord_next (iw : Word) (ver : Version) (s : State) :
    ∃ o, runWord iw ver s = .next ((s.driveIwdIn iw ver).driveIwdOut o) :=
  exec_next _ _

/-! ### Steps of a reading -/

/-- What reading word i can do: enter the decoded word, or raise `TruncatedStream` (R48, R254). -/
theorem readWordStep_cases (r : Reading) (s : State) :
    (∃ b0 b1 b2 b3 o, wordOffset r.words.length + 4 ≤ r.image.len ∧
        r.image.readBytes (wordOffset r.words.length) 4 = [b0, b1, b2, b3] ∧
        runWord (wordOfBytes s.params.wordOrder b0 b1 b2 b3) r.header.ver s =
          .next ((s.driveIwdIn (wordOfBytes s.params.wordOrder b0 b1 b2 b3)
            r.header.ver).driveIwdOut o) ∧
        readWordStep r s = .next (((s.driveIwdIn (wordOfBytes s.params.wordOrder b0 b1 b2 b3)
          r.header.ver).driveIwdOut o).recordWord r)) ∨
      (r.image.len < wordOffset r.words.length + 4 ∧
        readWordStep r s = .next (s.raise (.truncatedStream r.words.length
          (r.image.len - wordOffset r.words.length)))) := by
  by_cases h : wordOffset r.words.length + 4 ≤ r.image.len
  · obtain ⟨b0, b1, b2, b3, hb⟩ := readBytes_word r.image _ h
    obtain ⟨o, ho⟩ := runWord_next (wordOfBytes s.params.wordOrder b0 b1 b2 b3) r.header.ver s
    exact .inl ⟨b0, b1, b2, b3, o, h, hb, ho, by simp only [readWordStep, hb, ho]⟩
  · have h' : r.image.len < wordOffset r.words.length + 4 := by omega
    obtain ⟨hl, hlt⟩ := readBytes_word_short r.image _ h'
    refine .inr ⟨h', ?_⟩
    rw [readWordStep]
    split
    · simp_all
    · rw [hl]

/-- What reading slot j of a pool can do: enter the decoded slot, or raise `MalformedSlot` with the
number of bytes left (R46, R48, R255). -/
theorem readSlotStep_cases (pool : Pool) (r : Reading) (s : State) :
    (∃ slot : Slot, r.image.readBytes (slotOffset r.header pool (r.entries pool).length) 9 =
        slotBytes slot ∧
      readSlotStep pool r s = (s.driveSvd (slotBytes slot) r.header.ver).recordSlot r pool
        (svdSlot r.header.ver slot)) ∨
      (r.image.len < slotOffset r.header pool (r.entries pool).length + 9 ∧ ∃ bytes,
        r.image.readBytes (slotOffset r.header pool (r.entries pool).length) 9 = bytes ∧
        bytes.length = r.image.len - slotOffset r.header pool (r.entries pool).length ∧
        readSlotStep pool r s = (s.driveSvd bytes r.header.ver).raise
          (.malformedSlot bytes.length (some (pool, (r.entries pool).length)))) := by
  rcases svd_cases r.header.ver
      (r.image.readBytes (slotOffset r.header pool (r.entries pool).length) 9) with
    ⟨hl, hs⟩ | ⟨slot, hb, hs⟩
  · have hlen := Image.length_readBytes r.image
      (slotOffset r.header pool (r.entries pool).length) 9
    refine .inr ⟨by omega, _, rfl, by omega, ?_⟩
    simp only [readSlotStep, State.driveSvd_svdOut, hs]
  · refine .inl ⟨slot, hb.symm, ?_⟩
    rw [readSlotStep, ← hb]
    simp only [State.driveSvd_svdOut, svd_slotBytes]

/-- What a step of a reading can do (R48). -/
theorem readingStep_cases (r : Reading) (s : State) :
    (r.words.length < r.header.n.toNat ∧ readingStep r s = readWordStep r s) ∨
      (r.header.n.toNat ≤ r.words.length ∧ r.consts.length < r.header.k.toNat ∧
        readingStep r s = .next (readSlotStep .const r s)) ∨
      (r.header.n.toNat ≤ r.words.length ∧ r.header.k.toNat ≤ r.consts.length ∧
        r.globals.length < r.header.m.toNat ∧
        readingStep r s = .next (readSlotStep .global r s)) ∨
      (r.header.n.toNat ≤ r.words.length ∧ r.header.k.toNat ≤ r.consts.length ∧
        r.header.m.toNat ≤ r.globals.length ∧
        readingStep r s = .next (s.complete (.listing r.listing))) := by
  rw [readingStep]
  split
  · exact .inl ⟨‹_›, rfl⟩
  · split
    · exact .inr (.inl ⟨by omega, ‹_›, rfl⟩)
    · split
      · exact .inr (.inr (.inl ⟨by omega, by omega, ‹_›, rfl⟩))
      · exact .inr (.inr (.inr ⟨by omega, by omega, by omega, rfl⟩))

/-! ### The pack side -/

/-- What a word-pack step can do (R72). -/
theorem packStep_cases (i : IweIn) (s : State) :
    (∃ iw, iwe i = some iw ∧ packStep i s = .next ((s.driveIwe i iw).complete (.packedWord iw))) ∨
      (iwe i = none ∧ packStep i s = .refused (.opcodeOutOfRange i.op)) := by
  rw [packStep]
  cases iwe i with
  | some iw => exact .inl ⟨iw, rfl, rfl⟩
  | none => exact .inr ⟨rfl, rfl⟩

/-- What a slot-pack step can do (R223, R12). -/
theorem packSlotStep_cases (ver : Version) (v : Value) (s : State) :
    (∃ slot, sve ver v = some slot ∧
        packSlotStep ver v s = .next ((s.driveSve ver v slot).complete (.packedSlot slot))) ∨
      (sve ver v = none ∧ packSlotStep ver v s = .refused (.valueOutOfRange v)) := by
  rw [packSlotStep]
  cases sve ver v with
  | some slot => exact .inl ⟨slot, rfl, rfl⟩
  | none => exact .inr ⟨rfl, rfl⟩

/-- The fields of an opcode byte pack: a helper's word is never refused for its opcode. -/
theorem iwe_of_byte (op : Byte) (a b c : Int) : iwe ⟨op.toNat, a, b, c⟩ =
    some (packBytes op (low8 a) (low8 b) (low8 c)) := by
  have h := op.isLt
  have he : toUnsigned 8 (op.toNat : Int) = op := by
    apply BitVec.eq_of_toInt_eq
    simp [toUnsigned, BitVec.toInt_eq_toNat_bmod]
  rw [iwe, if_pos ⟨Int.natCast_nonneg _, by show (op.toNat : Int) < 256; omega⟩]
  simp only [he]

/-- `low8` of a byte's number is the byte. -/
@[simp] theorem low8_toNat (b : Byte) : low8 b.toNat = b := by
  simp [low8, toUnsigned]

/-! ### The step -/

/-- A step with a reading under way is a step of the reading. -/
theorem step_reading (s : State) (r : Reading) (h : s.reading = some r) :
    step s = readingStep r s := by
  simp only [step, h]

/-- A step with no reading under way and no request keeps the state. -/
theorem step_idle (s : State) (h : s.reading = none) (hq : s.requests = []) : step s = .next s := by
  simp only [step, h, idleStep, hq]

/-- A step with no reading under way serves the next request. -/
theorem step_serve (s : State) (q : Request) (qs : List Request) (h : s.reading = none)
    (hq : s.requests = q :: qs) : step s = serve q { s with requests := qs } := by
  simp only [step, h, idleStep, hq]

/-- What serving a request can do. -/
theorem serve_cases (q : Request) (s : State) :
    (∃ img c, q = .readImage img ∧ readHeader s.params img = .error c ∧
        serve q s = .next (s.raise c)) ∨
      (∃ img, q = .readImage img ∧ readHeader s.params img = .ok img.header ∧
        serve q s = .next (s.startReading img img.header)) ∨
      (∃ ver flags n k m ws cs gs, q = .writeImage ver flags n k m ws cs gs ∧
        serve q s = .next (s.complete
          (.image (Image.ofBytes (writeContainer s.params ver flags n k m ws cs gs))))) ∨
      (∃ iw ver o, q = .decodeWord iw ver ∧
        runWord iw ver s = .next ((s.driveIwdIn iw ver).driveIwdOut o) ∧
        serve q s = .next (((s.driveIwdIn iw ver).driveIwdOut o).complete (.word o))) ∨
      (∃ bytes ver, q = .decodeSlot bytes ver ∧ bytes.length ≠ 9 ∧
        serve q s = .next ((s.driveSvd bytes ver).raise (.malformedSlot bytes.length none))) ∨
      (∃ slot ver, q = .decodeSlot (slotBytes slot) ver ∧
        serve q s = .next ((s.driveSvd (slotBytes slot) ver).complete
          (.slot (svdSlot ver slot)))) ∨
      (∃ i iw, iwe i = some iw ∧ ((∃ op a b c, q = .packWord op a b c ∧ i = ⟨op, a, b, c⟩) ∨
          (∃ ver dst v, q = .packLoadi ver dst v ∧ loadiFields s.params ver dst v = some i) ∨
          (∃ ver v, q = .packJmp ver v ∧ jmpFields s.params ver v = some i)) ∧
        serve q s = .next ((s.driveIwe i iw).complete (.packedWord iw))) ∨
      (∃ op a b c, q = .packWord op a b c ∧ (op < 0 ∨ 256 ≤ op) ∧
        serve q s = .refused (.opcodeOutOfRange op)) ∨
      (∃ ver dst v, q = .packLoadi ver dst v ∧ loadiFields s.params ver dst v = none ∧
        serve q s = .refused (.noOpcode .loadi)) ∨
      (∃ ver v, q = .packJmp ver v ∧ jmpFields s.params ver v = none ∧
        serve q s = .refused (.noOpcode .jmp)) ∨
      (∃ ver v slot, (q = .packSlot ver v ∨ ∃ x, q = .packHostFloat ver x ∧
          v = .float (Config.f32FromHost x)) ∧ sve ver v = some slot ∧
        serve q s = .next ((s.driveSve ver v slot).complete (.packedSlot slot))) ∨
      (∃ ver v, q = .packSlot ver v ∧ sve ver v = none ∧
        serve q s = .refused (.valueOutOfRange v)) ∨
      (q = .cancel ∧ serve q s = .next { s with requests := [] }) := by
  cases q with
  | readImage img =>
    rcases readHeader_cases s.params img with ⟨_, h⟩ | ⟨_, _, _, h⟩ | ⟨_, _, h⟩
    · exact .inl ⟨img, _, rfl, h, by simp only [serve, h]⟩
    · exact .inl ⟨img, _, rfl, h, by simp only [serve, h]⟩
    · exact .inr (.inl ⟨img, rfl, h, by simp only [serve, h]⟩)
  | writeImage ver flags n k m ws cs gs =>
    exact .inr (.inr (.inl ⟨ver, flags, n, k, m, ws, cs, gs, rfl, rfl⟩))
  | decodeWord iw ver =>
    obtain ⟨o, h⟩ := runWord_next iw ver s
    exact .inr (.inr (.inr (.inl ⟨iw, ver, o, rfl, h, by
      simp only [serve, h, State.driveIwdOut_iwdOut]⟩)))
  | decodeSlot bytes ver =>
    rcases svd_cases ver bytes with ⟨hl, h⟩ | ⟨slot, rfl, h⟩
    · exact .inr (.inr (.inr (.inr (.inl ⟨bytes, ver, rfl, hl, by
        simp only [serve, State.driveSvd_svdOut, h]⟩))))
    · exact .inr (.inr (.inr (.inr (.inr (.inl ⟨slot, ver, rfl, by
        simp only [serve, State.driveSvd_svdOut, h]⟩)))))
  | packWord op a b c =>
    rcases packStep_cases ⟨op, a, b, c⟩ s with ⟨iw, h, hs⟩ | ⟨h, hs⟩
    · exact .inr (.inr (.inr (.inr (.inr (.inr (.inl
        ⟨_, iw, h, .inl ⟨op, a, b, c, rfl, rfl⟩, hs⟩))))))
    · refine .inr (.inr (.inr (.inr (.inr (.inr (.inr (.inl
        ⟨op, a, b, c, rfl, ?_, hs⟩)))))))
      by_contra hc
      simp [iwe, show 0 ≤ op ∧ op < 256 by omega] at h
  | packLoadi ver dst v =>
    cases hf : loadiFields s.params ver dst v with
    | none =>
      exact .inr (.inr (.inr (.inr (.inr (.inr (.inr (.inr (.inl
        ⟨ver, dst, v, rfl, hf, by simp only [serve, hf]⟩))))))))
    | some i =>
      obtain ⟨op, -, ho⟩ := Option.map_eq_some_iff.mp hf
      have hi : ∃ iw, iwe i = some iw := ⟨_, ho ▸ iwe_of_byte ..⟩
      obtain ⟨iw, hi⟩ := hi
      exact .inr (.inr (.inr (.inr (.inr (.inr (.inl ⟨i, iw, hi, .inr (.inl
        ⟨ver, dst, v, rfl, hf⟩), by simp only [serve, hf, packStep, hi]⟩))))))
  | packJmp ver v =>
    cases hf : jmpFields s.params ver v with
    | none =>
      exact .inr (.inr (.inr (.inr (.inr (.inr (.inr (.inr (.inr (.inl
        ⟨ver, v, rfl, hf, by simp only [serve, hf]⟩)))))))))
    | some i =>
      obtain ⟨op, -, ho⟩ := Option.map_eq_some_iff.mp hf
      have hi : ∃ iw, iwe i = some iw := ⟨_, ho ▸ iwe_of_byte ..⟩
      obtain ⟨iw, hi⟩ := hi
      exact .inr (.inr (.inr (.inr (.inr (.inr (.inl ⟨i, iw, hi, .inr (.inr
        ⟨ver, v, rfl, hf⟩), by simp only [serve, hf, packStep, hi]⟩))))))
  | packSlot ver v =>
    rcases packSlotStep_cases ver v s with ⟨slot, h, hs⟩ | ⟨h, hs⟩
    · exact .inr (.inr (.inr (.inr (.inr (.inr (.inr (.inr (.inr (.inr (.inl
        ⟨ver, v, slot, .inl rfl, h, hs⟩))))))))))
    · exact .inr (.inr (.inr (.inr (.inr (.inr (.inr (.inr (.inr (.inr (.inr (.inl
        ⟨ver, v, rfl, h, hs⟩)))))))))))
  | packHostFloat ver x =>
    exact .inr (.inr (.inr (.inr (.inr (.inr (.inr (.inr (.inr (.inr (.inl
      ⟨ver, _, _, .inr ⟨x, rfl, rfl⟩, rfl, rfl⟩))))))))))
  | cancel =>
    exact .inr (.inr (.inr (.inr (.inr (.inr (.inr (.inr (.inr (.inr (.inr (.inr
      ⟨rfl, rfl⟩)))))))))))

end Sys2Proof.Machine
end

