-- ==== Sys2Proof/Laws/Container.lean ====
section
/-! SUPPORT. What the loops of `ReadContainer` give, and the lengths of what `WriteContainer` lays down. -/

namespace Sys2Proof.Machine

/-- Where the image ends inside word `j` of those left, the loop over the words raises `TruncatedStream`
there (R254). -/
theorem readWords_short (p : Params) (img : Image) (ver : Version) : ∀ left i o,
    (∃ j, j < left ∧ o + 4 * j ≤ img.len ∧ img.len < o + 4 * (j + 1)) →
    ∃ j, j < left ∧ o + 4 * j ≤ img.len ∧ img.len < o + 4 * (j + 1) ∧
      readWords p img ver left i o =
        .error (.truncatedStream (i + j) (img.len - (o + 4 * j))) := by
  intro left
  induction left with
  | zero => rintro i o ⟨j, h, _⟩; omega
  | succ n ih =>
    rintro i o ⟨j, h1, h2, h3⟩
    rw [readWords]
    by_cases h : img.len < o + 4
    · rw [if_pos h]; exact ⟨0, by omega, by omega, by omega, rfl⟩
    · rw [if_neg h]
      obtain ⟨b0, b1, b2, b3, hb⟩ := readBytes_word img o (by omega)
      obtain ⟨j', g1, g2, g3, g4⟩ := ih (i + 1) (o + 4) ⟨j - 1, by omega, by omega, by omega⟩
      refine ⟨j' + 1, by omega, by omega, by omega, ?_⟩
      simp only [hb, g4]
      congr 2 <;> omega

/-- Where the image holds all the words left, the loop lists each as IWD decodes it (R48). -/
theorem readWords_ok (p : Params) (img : Image) (ver : Version) : ∀ left i o,
    o + 4 * left ≤ img.len → ∃ es, readWords p img ver left i o = .ok es ∧ es.length = left ∧
      ∀ j, j < left → ∃ b0 b1 b2 b3, img.readBytes (o + 4 * j) 4 = [b0, b1, b2, b3] ∧
        es[j]? = some ⟨i + j, iwd p ver (wordOfBytes p.wordOrder b0 b1 b2 b3)⟩ := by
  intro left
  induction left with
  | zero => intro i o _; exact ⟨[], rfl, rfl, fun j h => by omega⟩
  | succ n ih =>
    intro i o h
    rw [readWords, if_neg (by omega)]
    obtain ⟨b0, b1, b2, b3, hb⟩ := readBytes_word img o (by omega)
    obtain ⟨es, h1, h2, h3⟩ := ih (i + 1) (o + 4) (by omega)
    refine ⟨_, by simp only [hb, h1]; rfl, by simp [h2], fun j hj => ?_⟩
    cases j with
    | zero => exact ⟨b0, b1, b2, b3, hb, rfl⟩
    | succ j =>
      obtain ⟨c0, c1, c2, c3, g1, g2⟩ := h3 j (by omega)
      refine ⟨c0, c1, c2, c3, by rw [← g1]; congr 1; omega, ?_⟩
      rw [List.getElem?_cons_succ, g2]; congr 2; omega

/-- Where the image ends inside slot `i` of those left, the loop over the slots raises `MalformedSlot`
there (R255). -/
theorem readSlots_short (img : Image) (ver : Version) (pool : Pool) : ∀ left j o,
    (∃ i, i < left ∧ o + 9 * i ≤ img.len ∧ img.len < o + 9 * (i + 1)) →
    ∃ i, i < left ∧ o + 9 * i ≤ img.len ∧ img.len < o + 9 * (i + 1) ∧
      readSlots img ver pool left j o =
        .error (.malformedSlot (img.len - (o + 9 * i)) (some (pool, j + i))) := by
  intro left
  induction left with
  | zero => rintro i o ⟨j, h, _⟩; omega
  | succ n ih =>
    rintro i o ⟨j, h1, h2, h3⟩
    rw [readSlots]
    have hl := Image.length_readBytes img o 9
    rcases svd_cases ver (img.readBytes o 9) with ⟨g, e⟩ | ⟨sl, g, e⟩
    · simp only [e]
      refine ⟨0, by omega, by omega, by omega, ?_⟩
      rw [hl]; congr 2; omega
    · simp only [e]
      have : (slotBytes sl).length = 9 := by simp
      rw [g] at this
      obtain ⟨j', g1, g2, g3, g4⟩ := ih (i + 1) (o + 9) ⟨j - 1, by omega, by omega, by omega⟩
      refine ⟨j' + 1, by omega, by omega, by omega, ?_⟩
      simp only [g4]
      congr 2
      · omega
      · congr 2; omega

/-- Where the image holds all the slots left, the loop lists each as SVD decodes it (R48). -/
theorem readSlots_ok (img : Image) (ver : Version) (pool : Pool) : ∀ left j o,
    o + 9 * left ≤ img.len → ∃ es, readSlots img ver pool left j o = .ok es ∧ es.length = left ∧
      ∀ i, i < left → ∃ s, img.readBytes (o + 9 * i) 9 = slotBytes s ∧
        es[i]? = some ⟨pool, j + i, svdSlot ver s⟩ := by
  intro left
  induction left with
  | zero => intro i o _; exact ⟨[], rfl, rfl, fun j h => by omega⟩
  | succ n ih =>
    intro i o h
    rw [readSlots]
    have hl := Image.length_readBytes img o 9
    rcases svd_cases ver (img.readBytes o 9) with ⟨g, e⟩ | ⟨sl, g, e⟩
    · omega
    · simp only [e]
      obtain ⟨es, h1, h2, h3⟩ := ih (i + 1) (o + 9) (by omega)
      refine ⟨_, by simp only [h1]; rfl, by simp [h2], fun j hj => ?_⟩
      cases j with
      | zero => exact ⟨sl, g.symm, rfl⟩
      | succ j =>
        obtain ⟨c0, g1, g2⟩ := h3 j (by omega)
        refine ⟨c0, by rw [← g1]; congr 1; omega, ?_⟩
        rw [List.getElem?_cons_succ, g2]; congr 2; omega

/-- Words are laid down four bytes each (R52). -/
theorem length_flatMap_wordBytes (o : WordOrder) (ws : List Word) :
    (ws.flatMap (wordBytes o)).length = 4 * ws.length := by
  induction ws with
  | nil => rfl
  | cons w ws ih => simp [List.flatMap_cons, ih]; omega

/-- Slots are laid down nine bytes each (R52). -/
theorem length_flatMap_slotBytes (cs : List Slot) : (cs.flatMap slotBytes).length = 9 * cs.length := by
  induction cs with
  | nil => rfl
  | cons s cs ih => simp [List.flatMap_cons, ih]; omega

/-- A slot is determined by its nine bytes. -/
theorem slotBytes_inj {a b : Slot} (h : slotBytes a = slotBytes b) : a = b := by
  have h1 := svd_slotBytes 0 a
  rw [h, svd_slotBytes] at h1
  have h2 := SvdResult.decoded.inj h1
  have ht : (svdSlot 0 b).tag = (svdSlot 0 a).tag := by rw [h2]
  have hq : (svdSlot 0 b).payload = (svdSlot 0 a).payload := by rw [h2]
  cases a
  cases b
  simp_all [svdSlot]

end Sys2Proof.Machine
end

