-- ==== Sys2Proof/Laws/Text.lean ====
section
/-! SUPPORT. What the digits of a listing spell: base 16 (R235), and the bytes of a number in file
order. -/

namespace Sys2Proof.Machine

/-- A digit below 16 stands at its value in the alphabet of R235. -/
theorem idxOf_digitChar : ∀ d, d < 16 → hexAlphabet.idxOf? (digitChar d) = some d := by decide

@[simp] theorem length_hexDigits (n v : Nat) : (hexDigits n v).length = n := by
  induction n generalizing v with
  | zero => rfl
  | succ n ih => simp [hexDigits, ih]

/-- A digit written behind a spelling multiplies its number by 16 and adds the digit. -/
theorem hexValue_append (ds : List Char) (ch : Char) (v d : Nat) (h : hexValue ds = some v)
    (hd : hexAlphabet.idxOf? ch = some d) : hexValue (ds ++ [ch]) = some (v * 16 + d) := by
  induction ds generalizing v with
  | nil =>
    simp only [hexValue, Option.some.injEq] at h
    simp [hexValue, hd, ← h]
  | cons x xs ih =>
    rw [hexValue] at h
    split at h
    · rename_i dx vx h1 h2
      simp only [Option.some.injEq] at h
      rw [List.cons_append, hexValue, h1, ih vx h2]
      simp only [List.length_append, List.length_cons, List.length_nil, Option.some.injEq]
      rw [← h, Nat.pow_succ]
      ring
    · cases h

/-- `n` digits of a number spell the number modulo `16^n`. -/
theorem hexValue_hexDigits (n v : Nat) : hexValue (hexDigits n v) = some (v % 16 ^ n) := by
  induction n generalizing v with
  | zero => simp [hexDigits, hexValue, Nat.mod_one]
  | succ n ih =>
    rw [hexDigits, hexValue_append _ _ _ _ (ih _) (idxOf_digitChar _ (Nat.mod_lt _ (by decide)))]
    congr 1
    rw [Nat.pow_succ, Nat.mul_comm (16 ^ n) 16, Nat.mod_mul]
    omega

theorem isHex_hexDigits (n v : Nat) (h : v < 16 ^ n) : IsHex n v (hexDigits n v) :=
  ⟨length_hexDigits n v, by rw [hexValue_hexDigits, Nat.mod_eq_of_lt h]⟩

/-- Byte `i` of a number in file order (R9). -/
theorem getElem?_leBytes (n v i : Nat) (h : i < n) :
    (leBytes n v)[i]? = some (BitVec.ofNat 8 (v / 256 ^ i)) := by
  induction n generalizing v i with
  | zero => omega
  | succ n ih =>
    cases i with
    | zero => simp [leBytes]
    | succ i =>
      rw [leBytes, List.getElem?_cons_succ, ih _ _ (by omega), Nat.div_div_eq_div_mul, Nat.pow_succ,
        Nat.mul_comm]

end Sys2Proof.Machine
end

