-- ==== Sys2Proof/Tests/Slice0.lean ====
section
/-! SUPPORT. Tests. Expected values are those of 95_test_vectors.md (named in each docstring by the id of
the vector) or worked out by hand from the rule named. A test about an opcode byte other than 0 or 250
holds under `REG_T` only. The witness theorems at the end show that the hypotheses of the statements can
be met. -/

namespace Sys2Proof.Tests

open Sys2Proof.Machine

/-- Parameters to test with: `REG_T`, and a stand-in for `MAGIC`, which no source gives. -/
def params : Params := ⟨regT, .all, ⟨0x41, 0x42, 0x43, 0x44⟩, true, .little, .current⟩

/-- The word and its instruction are each other's encoding and decoding. -/
def codes (q : Nat × Instr) : Bool :=
  decodeTableWord 32 q.1 == some q.2 && encode q.2 == BitVec.ofNat 32 q.1

/-- The next state of an outcome. -/
def nextOf : Host.Outcome State Fault Refusal → Option State
  | .next t => some t
  | .fault _ | .refused _ => none

/-- The dispatch outputs of a word and its spelling, as the rows of section 3 print them. -/
def shows (op mn form cat ty ty2 simm : Nat) (text : String) : Bool :=
  let o := iwd params 7 (BitVec.ofNat 32 (op * 2 ^ 24 + 0x010203))
  o.known && o.mn.toNat == mn && o.form.toNat == form && o.cat.toNat == cat && o.ty.toNat == ty &&
    o.ty2.toNat == ty2 && o.simm.toNat == simm && iwdText o == text.toList &&
    [o.fa, o.fb, o.fc] == [1, 2, 3]

/-! ### Decoding and encoding, a word for every constructor (section 3) -/

/-- The words of section 3 for 40_control_flow.md. -/
theorem test_decode_control_flow : ([
    (0x00010203, .halt 0x00 1 2 3), (0x01010203, .panic 0x01 1 2 3),
    (0x02010203, .jmp 0x02 0x010203), (0x03010203, .jmpif 0x03 1 2 3),
    (0x04010203, .jmpifz 0x04 1 2 3)] : List (Nat × Instr)).all codes = true := by decide

/-- The words of section 3 for 41_register_movement.md. -/
theorem test_decode_movement : ([
    (0x05010203, .copy 0x05 1 2 3), (0x06010203, .move 0x06 1 2 3),
    (0x07010203, .loadi 0x07 1 0x0203), (0x08010203, .loadc 0x08 1 2 3),
    (0x09010203, .loadg 0x09 1 2 3), (0x0A010203, .storeg 0x0A 1 2 3)] : List (Nat × Instr)).all codes = true := by decide

/-- The words of section 3 for 42_call_stack.md. -/
theorem test_decode_call_stack : ([
    (0x0B010203, .call 0x0B 1 2 3), (0x0C010203, .tailcall 0x0C 1 2 3),
    (0x0D010203, .ret 0x0D 1 2 3)] : List (Nat × Instr)).all codes = true := by decide

/-- The words of section 3 for 43_arithmetic.md. -/
theorem test_decode_signed_arithmetic : ([
    (0x0E010203, .add 0x0E 1 2 3), (0x0F010203, .sub 0x0F 1 2 3),
    (0x10010203, .mul 0x10 1 2 3), (0x11010203, .div 0x11 1 2 3),
    (0x12010203, .mod 0x12 1 2 3), (0x13010203, .neg 0x13 1 2 3), (0x14010203, .eq 0x14 1 2 3),
    (0x15010203, .neq 0x15 1 2 3), (0x16010203, .gt 0x16 1 2 3), (0x17010203, .ge 0x17 1 2 3),
    (0x18010203, .lt 0x18 1 2 3), (0x19010203, .le 0x19 1 2 3)] : List (Nat × Instr)).all codes = true := by decide

/-- The words of section 3 for 43_arithmetic.md. -/
theorem test_decode_unsigned_arithmetic : ([
    (0x1A010203, .uadd 0x1A 1 2 3), (0x1B010203, .usub 0x1B 1 2 3),
    (0x1C010203, .umul 0x1C 1 2 3), (0x1D010203, .udiv 0x1D 1 2 3),
    (0x1E010203, .umod 0x1E 1 2 3), (0x1F010203, .uneg 0x1F 1 2 3),
    (0x20010203, .ueq 0x20 1 2 3), (0x21010203, .uneq 0x21 1 2 3),
    (0x22010203, .ugt 0x22 1 2 3), (0x23010203, .uge 0x23 1 2 3),
    (0x24010203, .ult 0x24 1 2 3), (0x25010203, .ule 0x25 1 2 3)] : List (Nat × Instr)).all codes = true := by decide

/-- The words of section 3 for 43_arithmetic.md. -/
theorem test_decode_float_arithmetic : ([
    (0x26010203, .fadd 0x26 1 2 3), (0x27010203, .fsub 0x27 1 2 3),
    (0x28010203, .fmul 0x28 1 2 3), (0x29010203, .fdiv 0x29 1 2 3),
    (0x2A010203, .fmod 0x2A 1 2 3), (0x2B010203, .fneg 0x2B 1 2 3),
    (0x2C010203, .feq 0x2C 1 2 3), (0x2D010203, .fneq 0x2D 1 2 3),
    (0x2E010203, .fgt 0x2E 1 2 3), (0x2F010203, .fge 0x2F 1 2 3),
    (0x30010203, .flt 0x30 1 2 3), (0x31010203, .fle 0x31 1 2 3)] : List (Nat × Instr)).all codes = true := by decide

/-- The words of section 3 for 43_arithmetic.md. -/
theorem test_decode_double_arithmetic : ([
    (0x32010203, .dadd 0x32 1 2 3), (0x33010203, .dsub 0x33 1 2 3),
    (0x34010203, .dmul 0x34 1 2 3), (0x35010203, .ddiv 0x35 1 2 3),
    (0x36010203, .dmod 0x36 1 2 3), (0x37010203, .dneg 0x37 1 2 3),
    (0x38010203, .deq 0x38 1 2 3), (0x39010203, .dneq 0x39 1 2 3),
    (0x3A010203, .dgt 0x3A 1 2 3), (0x3B010203, .dge 0x3B 1 2 3),
    (0x3C010203, .dlt 0x3C 1 2 3), (0x3D010203, .dle 0x3D 1 2 3)] : List (Nat × Instr)).all codes = true := by decide

/-- The words of section 3 for 44_bitwise.md. -/
theorem test_decode_bitwise_binary : ([
    (0x3E010203, .and 0x3E 1 2 3), (0x3F010203, .or 0x3F 1 2 3), (0x40010203, .xor 0x40 1 2 3),
    (0x41010203, .shl 0x41 1 2 3), (0x42010203, .shr 0x42 1 2 3),
    (0x43010203, .sar 0x43 1 2 3), (0x44010203, .uand 0x44 1 2 3),
    (0x45010203, .uor 0x45 1 2 3), (0x46010203, .uxor 0x46 1 2 3),
    (0x47010203, .ushl 0x47 1 2 3), (0x48010203, .ushr 0x48 1 2 3),
    (0x49010203, .usar 0x49 1 2 3)] : List (Nat × Instr)).all codes = true := by decide

/-- The words of section 3 for 44_bitwise.md. -/
theorem test_decode_bitwise_unary : ([
    (0x4A010203, .lnot 0x4A 1 2 3), (0x4B010203, .bnot 0x4B 1 2 3),
    (0x4C010203, .ulnot 0x4C 1 2 3), (0x4D010203, .ubnot 0x4D 1 2 3)] : List (Nat × Instr)).all codes = true := by decide

/-- The words of section 3 for 45_conversions.md. -/
theorem test_decode_conversions : ([
    (0x4E010203, .i2d 0x4E 1 2 3), (0x4F010203, .i2f 0x4F 1 2 3),
    (0x50010203, .d2i 0x50 1 2 3), (0x51010203, .f2i 0x51 1 2 3),
    (0x52010203, .i2u 0x52 1 2 3), (0x53010203, .u2i 0x53 1 2 3),
    (0x54010203, .u2d 0x54 1 2 3), (0x55010203, .u2f 0x55 1 2 3),
    (0x56010203, .d2u 0x56 1 2 3), (0x57010203, .f2u 0x57 1 2 3)] : List (Nat × Instr)).all codes = true := by decide

/-- Vectors U1 to U4 and S7: unassigned opcode bytes. -/
theorem test_decode_unknown : ([
    (0x58010203, .unknown 0x58 1 2 3), (0x7F000000, .unknown 0x7F 0 0 0),
    (0xFA010203, .unknown 0xFA 1 2 3), (0xFFFFFFFF, .unknown 0xFF 0xFF 0xFF 0xFF)] :
    List (Nat × Instr)).all codes = true := by decide

/-- The section 4 words whose fields differ most: F3, F5, F8, F9, F12, F15, F17, F21. -/
theorem test_decode_corners : ([
    (0x02800000, .jmp 0x02 0x800000), (0x0300AAFF, .jmpif 0x03 0 0xAA 0xFF),
    (0x050404EE, .copy 0x05 4 4 0xEE), (0x07008000, .loadi 0x07 0 0x8000),
    (0x0A010055, .storeg 0x0A 1 0 0x55), (0x11070707, .div 0x11 7 7 7),
    (0x2B031122, .fneg 0x2B 3 0x11 0x22), (0x4DC80000, .ubnot 0x4D 200 0 0)] :
    List (Nat × Instr)).all codes = true := by decide

/-- Fewer than four bytes are rejected by name (R88). -/
theorem test_decode_truncated :
    decode params 0 [1, 2, 3] = .error (.truncated 3) ∧ decode params 0 [] = .error (.truncated 0) := by
  decide

/-- The file order of R45: field c first, or the opcode first under the other setting. -/
theorem test_decode_file_order :
    decode params 0 [0xFF, 0xFE, 0x01, 0x07, 0x99] = .ok (.loadi 0x07 1 0xFEFF, [0x99]) ∧
      decode { params with wordOrder := .big } 0 [0x07, 0x01, 0xFE, 0xFF] =
        .ok (.loadi 0x07 1 0xFEFF, []) := by decide

/-! ### WellFormed: an ill-formed term for each check -/

/-- A mnemonic under a byte the registry gives to another. -/
theorem test_illformed_wrong_byte : (Instr.halt 1 0 0 0).WellFormed params 0 = false := by decide

/-- A mnemonic under a byte the registry gives to none (R82 item 2). -/
theorem test_illformed_unassigned_byte : (Instr.add 250 1 2 3).WellFormed params 0 = false := by decide

/-- The fallback under a byte the registry names. -/
theorem test_illformed_unknown_named : (Instr.unknown 0x0E 1 2 3).WellFormed params 0 = false := by
  decide

/-- A mnemonic under a version that is not admitted (I16), and the fallback there. -/
theorem test_illformed_unadmitted :
    (Instr.add 0x0E 1 2 3).WellFormed { params with admitted := .only [1] } 2 = false ∧
      (Instr.unknown 0x0E 1 2 3).WellFormed { params with admitted := .only [1] } 2 = true ∧
      (Instr.add 0x0E 1 2 3).WellFormed { params with admitted := .only [1] } 1 = true := by decide

/-! ### Dispatch: outputs and spelling of every mnemonic (section 3) -/

/-- The rows of section 3 for 40_control_flow.md. -/
theorem test_dispatch_control_flow :
    (shows 0x00 0 0 0 0 0 0 "HALT a=1 b=2 c=3" &&
    shows 0x01 1 0 0 0 0 0 "PANIC a=1 b=2 c=3" &&
    shows 0x02 2 5 0 0 0 66051 "JMP 66051" &&
    shows 0x03 3 6 0 0 0 3 "JMPIF r1, 3" &&
    shows 0x04 4 6 0 0 0 3 "JMPIFZ r1, 3") = true := by decide

/-- The rows of section 3 for 41_register_movement.md. -/
theorem test_dispatch_movement :
    (shows 0x05 5 3 1 0 0 0 "COPY r1, r2" &&
    shows 0x06 6 3 1 0 0 0 "MOVE r1, r2" &&
    shows 0x07 7 4 1 0 0 515 "LOADI r1, 515" &&
    shows 0x08 8 7 1 0 0 0 "LOADC r1, 2" &&
    shows 0x09 9 7 1 0 0 0 "LOADG r1, 2" &&
    shows 0x0A 10 7 1 0 0 0 "STOREG r1, 2") = true := by decide

/-- The rows of section 3 for 42_call_stack.md. -/
theorem test_dispatch_call_stack :
    (shows 0x0B 11 0 2 0 0 0 "CALL a=1 b=2 c=3" &&
    shows 0x0C 12 0 2 0 0 0 "TAILCALL a=1 b=2 c=3" &&
    shows 0x0D 13 0 2 0 0 0 "RET a=1 b=2 c=3") = true := by decide

/-- The rows of section 3 for 43_arithmetic.md. -/
theorem test_dispatch_signed_arithmetic :
    (shows 0x0E 14 1 3 1 1 0 "ADD r1, r2, r3" &&
    shows 0x0F 15 1 3 1 1 0 "SUB r1, r2, r3" &&
    shows 0x10 16 1 3 1 1 0 "MUL r1, r2, r3" &&
    shows 0x11 17 1 3 1 1 0 "DIV r1, r2, r3" &&
    shows 0x12 18 1 3 1 1 0 "MOD r1, r2, r3" &&
    shows 0x13 19 2 3 1 1 0 "NEG r1" &&
    shows 0x14 20 1 3 1 0 0 "EQ r1, r2, r3" &&
    shows 0x15 21 1 3 1 0 0 "NEQ r1, r2, r3" &&
    shows 0x16 22 1 3 1 0 0 "GT r1, r2, r3" &&
    shows 0x17 23 1 3 1 0 0 "GE r1, r2, r3" &&
    shows 0x18 24 1 3 1 0 0 "LT r1, r2, r3" &&
    shows 0x19 25 1 3 1 0 0 "LE r1, r2, r3") = true := by decide

/-- The rows of section 3 for 43_arithmetic.md. -/
theorem test_dispatch_unsigned_arithmetic :
    (shows 0x1A 26 1 3 2 2 0 "UADD r1, r2, r3" &&
    shows 0x1B 27 1 3 2 2 0 "USUB r1, r2, r3" &&
    shows 0x1C 28 1 3 2 2 0 "UMUL r1, r2, r3" &&
    shows 0x1D 29 1 3 2 2 0 "UDIV r1, r2, r3" &&
    shows 0x1E 30 1 3 2 2 0 "UMOD r1, r2, r3" &&
    shows 0x1F 31 2 3 2 2 0 "UNEG r1" &&
    shows 0x20 32 1 3 2 0 0 "UEQ r1, r2, r3" &&
    shows 0x21 33 1 3 2 0 0 "UNEQ r1, r2, r3" &&
    shows 0x22 34 1 3 2 0 0 "UGT r1, r2, r3" &&
    shows 0x23 35 1 3 2 0 0 "UGE r1, r2, r3" &&
    shows 0x24 36 1 3 2 0 0 "ULT r1, r2, r3" &&
    shows 0x25 37 1 3 2 0 0 "ULE r1, r2, r3") = true := by decide

/-- The rows of section 3 for 43_arithmetic.md. -/
theorem test_dispatch_float_arithmetic :
    (shows 0x26 38 1 3 3 3 0 "FADD r1, r2, r3" &&
    shows 0x27 39 1 3 3 3 0 "FSUB r1, r2, r3" &&
    shows 0x28 40 1 3 3 3 0 "FMUL r1, r2, r3" &&
    shows 0x29 41 1 3 3 3 0 "FDIV r1, r2, r3" &&
    shows 0x2A 42 1 3 3 3 0 "FMOD r1, r2, r3" &&
    shows 0x2B 43 2 3 3 3 0 "FNEG r1" &&
    shows 0x2C 44 1 3 3 0 0 "FEQ r1, r2, r3" &&
    shows 0x2D 45 1 3 3 0 0 "FNEQ r1, r2, r3" &&
    shows 0x2E 46 1 3 3 0 0 "FGT r1, r2, r3" &&
    shows 0x2F 47 1 3 3 0 0 "FGE r1, r2, r3" &&
    shows 0x30 48 1 3 3 0 0 "FLT r1, r2, r3" &&
    shows 0x31 49 1 3 3 0 0 "FLE r1, r2, r3") = true := by decide

/-- The rows of section 3 for 43_arithmetic.md. -/
theorem test_dispatch_double_arithmetic :
    (shows 0x32 50 1 3 4 4 0 "DADD r1, r2, r3" &&
    shows 0x33 51 1 3 4 4 0 "DSUB r1, r2, r3" &&
    shows 0x34 52 1 3 4 4 0 "DMUL r1, r2, r3" &&
    shows 0x35 53 1 3 4 4 0 "DDIV r1, r2, r3" &&
    shows 0x36 54 1 3 4 4 0 "DMOD r1, r2, r3" &&
    shows 0x37 55 2 3 4 4 0 "DNEG r1" &&
    shows 0x38 56 1 3 4 0 0 "DEQ r1, r2, r3" &&
    shows 0x39 57 1 3 4 0 0 "DNEQ r1, r2, r3" &&
    shows 0x3A 58 1 3 4 0 0 "DGT r1, r2, r3" &&
    shows 0x3B 59 1 3 4 0 0 "DGE r1, r2, r3" &&
    shows 0x3C 60 1 3 4 0 0 "DLT r1, r2, r3" &&
    shows 0x3D 61 1 3 4 0 0 "DLE r1, r2, r3") = true := by decide

/-- The rows of section 3 for 44_bitwise.md. -/
theorem test_dispatch_bitwise_binary :
    (shows 0x3E 62 1 4 1 1 0 "AND r1, r2, r3" &&
    shows 0x3F 63 1 4 1 1 0 "OR r1, r2, r3" &&
    shows 0x40 64 1 4 1 1 0 "XOR r1, r2, r3" &&
    shows 0x41 65 1 4 1 1 0 "SHL r1, r2, r3" &&
    shows 0x42 66 1 4 1 1 0 "SHR r1, r2, r3" &&
    shows 0x43 67 1 4 1 1 0 "SAR r1, r2, r3" &&
    shows 0x44 68 1 4 2 2 0 "UAND r1, r2, r3" &&
    shows 0x45 69 1 4 2 2 0 "UOR r1, r2, r3" &&
    shows 0x46 70 1 4 2 2 0 "UXOR r1, r2, r3" &&
    shows 0x47 71 1 4 2 2 0 "USHL r1, r2, r3" &&
    shows 0x48 72 1 4 2 2 0 "USHR r1, r2, r3" &&
    shows 0x49 73 1 4 2 2 0 "USAR r1, r2, r3") = true := by decide

/-- The rows of section 3 for 44_bitwise.md. -/
theorem test_dispatch_bitwise_unary :
    (shows 0x4A 74 2 4 1 1 0 "LNOT r1" &&
    shows 0x4B 75 2 4 1 1 0 "BNOT r1" &&
    shows 0x4C 76 2 4 2 2 0 "ULNOT r1" &&
    shows 0x4D 77 2 4 2 2 0 "UBNOT r1") = true := by decide

/-- The rows of section 3 for 45_conversions.md. -/
theorem test_dispatch_conversions :
    (shows 0x4E 78 0 5 1 4 0 "I2D a=1 b=2 c=3" &&
    shows 0x4F 79 0 5 1 3 0 "I2F a=1 b=2 c=3" &&
    shows 0x50 80 0 5 4 1 0 "D2I a=1 b=2 c=3" &&
    shows 0x51 81 0 5 3 1 0 "F2I a=1 b=2 c=3" &&
    shows 0x52 82 0 5 1 2 0 "I2U a=1 b=2 c=3" &&
    shows 0x53 83 0 5 2 1 0 "U2I a=1 b=2 c=3" &&
    shows 0x54 84 0 5 2 4 0 "U2D a=1 b=2 c=3" &&
    shows 0x55 85 0 5 2 3 0 "U2F a=1 b=2 c=3" &&
    shows 0x56 86 0 5 4 2 0 "D2U a=1 b=2 c=3" &&
    shows 0x57 87 0 5 3 2 0 "F2U a=1 b=2 c=3") = true := by decide

/-- Vectors X1 to X22: the `simm` port of LOADI, JMP and JMPIF. -/
theorem test_simm : ([
    (0x07000000, 0x00000000), (0x07000001, 0x00000001), (0x07007FFF, 0x00007FFF),
    (0x07008000, 0xFFFF8000), (0x07008001, 0xFFFF8001), (0x0700FFFE, 0xFFFFFFFE),
    (0x0700FFFF, 0xFFFFFFFF), (0x070000FF, 0x000000FF), (0x0700FF00, 0xFFFFFF00),
    (0x02000000, 0x00000000), (0x02000001, 0x00000001), (0x027FFFFF, 0x007FFFFF),
    (0x02800000, 0xFF800000), (0x02800001, 0xFF800001), (0x02FFFFFD, 0xFFFFFFFD),
    (0x02FFFFFF, 0xFFFFFFFF), (0x0200FFFF, 0x0000FFFF), (0x03005500, 0x0), (0x03005501, 0x1),
    (0x0300557F, 0x7f), (0x03005580, 0x80), (0x030055FF, 0xff)] : List (Nat × Nat)).all
      (fun q => (iwd params 0 (BitVec.ofNat 32 q.1)).simm.toNat == q.2) = true := by decide

/-- Vectors X23 to X32: the LOADI pack helper, in range and wrapping. -/
theorem test_pack_loadi : ([
    (0, 0x07010000), (1, 0x07010001), (-1, 0x0701FFFF), (32767, 0x07017FFF),
    (-32768, 0x07018000), (32768, 0x07018000), (-32769, 0x07017FFF), (40000, 0x07019C40),
    (65536, 0x07010000), (-65536, 0x07010000)] : List (Int × Nat)).all
      (fun q => ((loadiFields params 0 1 q.1).bind iwe).map BitVec.toNat == some q.2) = true := by decide

/-- Vectors X33 to X40: the JMP pack helper, in range and wrapping. -/
theorem test_pack_jmp : ([
    (0, 0x02000000), (-3, 0x02FFFFFD), (-1, 0x02FFFFFF), (8388607, 0x027FFFFF),
    (-8388608, 0x02800000), (8388608, 0x02800000), (-8388609, 0x027FFFFF),
    (16777216, 0x02000000)] : List (Int × Nat)).all
      (fun q => ((jmpFields params 0 q.1).bind iwe).map BitVec.toNat == some q.2) = true := by decide

/-- Vectors W3 to W10: fields, masks, the refusals, and the composite split of -1. -/
theorem test_pack_word :
    (opField 0x12345678, faField 0x12345678, fbField 0x12345678, fcField 0x12345678) =
        (0x12, 0x34, 0x56, 0x78) ∧
      iwe ⟨5, 256, -1, 511⟩ = some 0x0500FFFF ∧ iwe ⟨7, 1, -1 / 256, -1⟩ = some 0x0701FFFF ∧
      iwe ⟨7, 1, 0x1234, 0x1234⟩ = some 0x07013434 ∧ iwe ⟨256, 0, 0, 0⟩ = none ∧
      iwe ⟨-1, 0, 0, 0⟩ = none ∧ iwe ⟨0xDE, 0xAD, 0xBE, 0xEF⟩ = some 0xDEADBEEF ∧
      iwe ⟨0xAB, 1, 0x80, 0xFF⟩ = some 0xAB0180FF := by decide

/-- The registry `REG_V` of section 3: the version selects the mnemonic (R88). -/
theorem test_version_dependence :
    let p : Params := { params with opreg := [⟨some 1, 0x0E, .add⟩, ⟨some 2, 0x0E, .sub⟩] }
    (iwd p 1 0x0E010203).mn = 14 ∧ (iwd p 2 0x0E010203).mn = 15 ∧ (iwd p 3 0x0E010203).mn = 127 ∧
      iwdText (iwd p 3 0x0E010203) = "UNKNOWN(14) a=1 b=2 c=3".toList := by decide

/-- Vectors F1, F2, F4, F5, F10, F11, F13 and S3 as listed. -/
theorem test_spellings : ([
    (0x00FFFFFF, "HALT a=255 b=255 c=255"), (0x027FFFFF, "JMP 8388607"), (0x02000000, "JMP 0"),
    (0x0300AAFF, "JMPIF r0, 255"), (0x07FF7FFF, "LOADI r255, 32767"), (0x0800FF00, "LOADC r0, 255"),
    (0x0BFFFFFF, "CALL a=255 b=255 c=255"), (0x02FFFFFD, "JMP -3"),
    (0x07008000, "LOADI r0, -32768")] : List (Nat × String)).all
      (fun q => iwdText (iwd params 0 (BitVec.ofNat 32 q.1)) == q.2.toList) = true := by decide

/-! ### Slots (section 5) -/

/-- The kind, the canonicity and the spelling SVD gives for bytes. -/
def reads (q : List Byte × Nat × Bool × String) : Bool :=
  match svd 0 q.1 with
  | .malformed _ => false
  | .decoded o => o.kind.toNat == q.2.1 && o.noncanon == q.2.2.1 && valueText o.value == q.2.2.2.toList

/-- Vectors V1 to V14. -/
theorem test_slot_decode_integers : ([
    ([0, 0, 0, 0, 0, 0, 0, 0, 0], 0, false, "NUL"),
    ([0, 0x01, 0, 0, 0, 0, 0, 0, 0], 0, true, "NUL"),
    ([0x01, 0x01, 0, 0, 0, 0, 0, 0, 0], 1, false, "BOOL true"),
    ([0x01, 0, 0, 0, 0, 0, 0, 0, 0], 1, false, "BOOL false"),
    ([0x01, 0xFF, 0xFF, 0xFF, 0xFF, 0xFF, 0xFF, 0xFF, 0xFF], 1, true, "BOOL true"),
    ([0x01, 0, 0, 0, 0, 0, 0, 0, 0x80], 1, true, "BOOL true"),
    ([0x01, 0x02, 0, 0, 0, 0, 0, 0, 0], 1, true, "BOOL true"),
    ([0x02, 0, 0, 0, 0, 0, 0, 0, 0], 2, false, "U64 0"),
    ([0x02, 0xFF, 0xFF, 0xFF, 0xFF, 0xFF, 0xFF, 0xFF, 0xFF], 2, false, "U64 18446744073709551615"),
    ([0x03, 0x2A, 0, 0, 0, 0, 0, 0, 0], 3, false, "I64 42"),
    ([0x03, 0xFF, 0xFF, 0xFF, 0xFF, 0xFF, 0xFF, 0xFF, 0xFF], 3, false, "I64 -1"),
    ([0x03, 0, 0, 0, 0, 0, 0, 0, 0x80], 3, false, "I64 -9223372036854775808"),
    ([0x03, 0xFF, 0xFF, 0xFF, 0xFF, 0xFF, 0xFF, 0xFF, 0x7F], 3, false, "I64 9223372036854775807"),
    ([0x03, 0, 0, 0, 0, 0, 0, 0, 0], 3, false, "I64 0")] :
    List (List Byte × Nat × Bool × String)).all reads = true := by decide

/-- Vectors V15 to V26. -/
theorem test_slot_decode_others : ([
    ([0x04, 0, 0, 0x80, 0x3F, 0, 0, 0, 0], 4, false, "FLOAT 0x3F800000"),
    ([0x04, 0, 0, 0xC0, 0x7F, 0, 0, 0, 0], 4, false, "FLOAT 0x7FC00000"),
    ([0x04, 0, 0, 0, 0x80, 0, 0, 0, 0], 4, false, "FLOAT 0x80000000"),
    ([0x04, 0, 0, 0x80, 0x3F, 0x01, 0, 0, 0], 4, true, "FLOAT 0x3F800000"),
    ([0x05, 0, 0, 0, 0, 0, 0, 0xF0, 0x3F], 5, false, "DOUBLE 0x3FF0000000000000"),
    ([0x05, 0x01, 0, 0, 0, 0, 0, 0xF8, 0x7F], 5, false, "DOUBLE 0x7FF8000000000001"),
    ([0x06, 0x11, 0x22, 0x33, 0x44, 0x55, 0x66, 0x77, 0x88], 6, false, "OBJ 0x8877665544332211"),
    ([0x07, 0x05, 0, 0, 0, 0, 0, 0x04, 0], 7, false, "CALLABLE entry=5 argc=0 regc=4"),
    ([0x07, 0xFF, 0xFF, 0xFF, 0xFF, 0xFF, 0xFF, 0xFF, 0xFF], 7, false, "CALLABLE entry=4294967295 argc=65535 regc=65535"),
    ([0x09, 0x01, 0x02, 0x03, 0x04, 0x05, 0x06, 0x07, 0x08], 15, false, "UNKNOWN_TAG(9) 01 02 03 04 05 06 07 08"),
    ([0x08, 0, 0, 0, 0, 0, 0, 0, 0], 15, false, "UNKNOWN_TAG(8) 00 00 00 00 00 00 00 00"),
    ([0xFF, 0xFF, 0xFF, 0xFF, 0xFF, 0xFF, 0xFF, 0xFF, 0xFF], 15, false, "UNKNOWN_TAG(255) FF FF FF FF FF FF FF FF")] :
    List (List Byte × Nat × Bool × String)).all reads = true := by decide

/-- Vectors M1 to M6: the length is checked before the tag. -/
theorem test_slot_malformed : ([
    [], [0x03], [0x03, 0x2A, 0, 0, 0], [0x07, 0x05, 0, 0, 0, 0, 0, 0x04],
    [0x03, 0x2A, 0, 0, 0, 0, 0, 0, 0, 0], [9, 9, 9, 9, 9, 9, 9, 9, 9, 9, 9, 9]] :
    List (List Byte)).all (fun b => svd 0 b == .malformed b.length) = true := by decide

/-- The ports of R25: byte k at bits `8k+7..8k`. -/
theorem test_slot_ports :
    svdPorts 0 0x000400000000000507 9 = svd 0 [7, 5, 0, 0, 0, 0, 0, 4, 0] ∧
      svdPorts 0 0x000400000000000507 8 = .malformed 8 := by decide

/-- Vectors E1 to E15. -/
theorem test_slot_encode : ([
    (.nul, [0, 0, 0, 0, 0, 0, 0, 0, 0]),
    (.bool true, [0x01, 0x01, 0, 0, 0, 0, 0, 0, 0]),
    (.bool false, [0x01, 0, 0, 0, 0, 0, 0, 0, 0]),
    (.u64 0, [0x02, 0, 0, 0, 0, 0, 0, 0, 0]),
    (.u64 18446744073709551615, [0x02, 0xFF, 0xFF, 0xFF, 0xFF, 0xFF, 0xFF, 0xFF, 0xFF]),
    (.i64 0, [0x03, 0, 0, 0, 0, 0, 0, 0, 0]),
    (.i64 (-1), [0x03, 0xFF, 0xFF, 0xFF, 0xFF, 0xFF, 0xFF, 0xFF, 0xFF]),
    (.i64 (-9223372036854775808), [0x03, 0, 0, 0, 0, 0, 0, 0, 0x80]),
    (.i64 9223372036854775807, [0x03, 0xFF, 0xFF, 0xFF, 0xFF, 0xFF, 0xFF, 0xFF, 0x7F]),
    (.i64 42, [0x03, 0x2A, 0, 0, 0, 0, 0, 0, 0]),
    (.float 0x3FC00000, [0x04, 0, 0, 0xC0, 0x3F, 0, 0, 0, 0]),
    (.double 0, [0x05, 0, 0, 0, 0, 0, 0, 0, 0]),
    (.obj 0, [0x06, 0, 0, 0, 0, 0, 0, 0, 0]),
    (.callable 5 0 4, [0x07, 0x05, 0, 0, 0, 0, 0, 0x04, 0]),
    (.unknown 9 0x0807060504030201, [0x09, 0x01, 0x02, 0x03, 0x04, 0x05, 0x06, 0x07, 0x08])] : List (Value × List Byte)).all
      (fun q => (sve 0 q.1).map slotBytes == some q.2) = true := by decide

/-- Vectors E16 to E19: outside the domain. -/
theorem test_slot_encode_refused : ([.u64 (-1), .i64 (2 ^ 63), .callable 0 65536 0, .callable (2 ^ 32) 0 0] :
    List Value).all (fun v => sve 0 v == none) = true := by decide

/-! ### Containers (section 5.3 and section 6), with the stand-in magic `41 42 43 44` -/

/-- What reading bytes gives: the lines of the listing, or the condition. -/
def outcome (p : Params) (bs : List Byte) : Except Condition (List (List Char)) :=
  match readContainer p (Image.ofBytes bs) with
  | .ok l => .ok (listingLines l)
  | .error c => .error c

/-- The bytes of `H(v, f, n, k, m)` for counts below 256. -/
def hdr (v f n k m : Byte) : List Byte :=
  [0x41, 0x42, 0x43, 0x44, v, 0, f, 0, n, 0, 0, 0, k, 0, 0, 0, m, 0, 0, 0]

/-- Bytes and the condition they raise. -/
def raises (q : List Byte × Condition) : Bool := outcome params q.1 == .error q.2

/-- Bytes and the lines they list. -/
def lists (q : List Byte × List String) : Bool := outcome params q.1 == .ok (q.2.map String.toList)

/-- Vectors C1, C4, C6, C8, C9, C10, C11, C12, C13, C14, C15. -/
theorem test_container_raises : ([
    ([], .truncatedHeader 0), ((hdr 1 0 0 0 0).take 19, .truncatedHeader 19),
    (0x40 :: (hdr 1 0 0 0 0).drop 1, .badMagic ⟨0x40, 0x42, 0x43, 0x44⟩),
    (0x40 :: ((hdr 1 0 0 0 0).drop 1).take 9, .truncatedHeader 10),
    (0x40 :: (hdr 1 0 2 0 0).drop 1 ++ [0, 0, 0, 0], .badMagic ⟨0x40, 0x42, 0x43, 0x44⟩),
    (hdr 1 0 2 0 0 ++ [0, 0, 0, 0, 0], .truncatedStream 1 1),
    (hdr 1 0 1 0 0, .truncatedStream 0 0),
    (hdr 1 0 1 1 0 ++ [0, 0, 0, 0, 3, 0x2A, 0, 0, 0], .malformedSlot 5 (some (.const, 0))),
    (hdr 1 0 0 2 0 ++ [3, 0x2A, 0, 0, 0, 0, 0, 0, 0], .malformedSlot 0 (some (.const, 1))),
    (hdr 1 0 0 0 1 ++ [1, 1, 0, 0, 0, 0, 0, 0], .malformedSlot 8 (some (.global, 0))),
    (hdr 1 0 0 1 1 ++ [3, 0x2A, 0, 0, 0], .malformedSlot 5 (some (.const, 0)))] :
    List (List Byte × Condition)).all raises = true := by decide

/-- Vectors C5, C16, C18 and program P4. -/
theorem test_container_lists : ([
    (hdr 1 0 0 0 0, []), (hdr 1 1 1 0 0 ++ [0, 0, 0, 0, 0xDE, 0xAD], ["0: HALT a=0 b=0 c=0"]),
    (hdr 1 0 1 0 0 ++ [3, 2, 1, 0xFA], ["0: UNKNOWN(250) a=1 b=2 c=3"]),
    (hdr 1 0 2 1 1 ++ [3, 2, 1, 0xFA, 0, 0, 0, 0, 9, 1, 2, 3, 4, 5, 6, 7, 8, 0, 1, 0, 0, 0, 0, 0, 0, 0],
      ["0: UNKNOWN(250) a=1 b=2 c=3", "1: HALT a=0 b=0 c=0",
        "const 0: UNKNOWN_TAG(9) 01 02 03 04 05 06 07 08", "global 0: NUL"])] :
    List (List Byte × List String)).all lists = true := by decide

/-- Program P2. -/
theorem test_container_p2 : lists (hdr 1 1 7 1 1 ++ [0, 0, 0, 8, 1, 0, 1, 7, 1, 0, 0, 0x0F, 1, 0, 0, 4,
    0xFD, 0xFF, 0xFF, 2, 0, 0, 0, 0x0A, 0, 0, 0, 0, 3, 3, 0, 0, 0, 0, 0, 0, 0, 3, 0, 0, 0, 0, 0, 0, 0, 0],
    ["0: LOADC r0, 0", "1: LOADI r1, 1", "2: SUB r0, r0, r1", "3: JMPIFZ r0, 1", "4: JMP -3",
      "5: STOREG r0, 0", "6: HALT a=0 b=0 c=0", "const 0: I64 3", "global 0: I64 0"]) = true := by decide

/-- Vectors C7 and C17: the header is recorded, `flags[0]` is `verbose`, and a lenient reader keeps the
magic it read. -/
theorem test_container_header :
    (Image.ofBytes [0x41, 0x42, 0x43, 0x44, 7, 0, 0xFE, 0xFF, 0, 0, 0, 0, 1, 0, 0, 0, 2, 0, 0, 1]).header =
        ⟨⟨0x41, 0x42, 0x43, 0x44⟩, 7, 0xFFFE, 0, 1, 0x01000002⟩ ∧
      (⟨params.magic, 7, 0xFFFE, 0, 0, 0⟩ : Header).verbose = false ∧
      (⟨params.magic, 7, 1, 0, 0, 0⟩ : Header).verbose = true ∧
      outcome { params with strictMagic := false } (0x40 :: (hdr 1 0 0 0 0).drop 1) = .ok [] := by decide

/-- The writer vector of section 5.3: the counts given are written, unchecked. -/
theorem test_writer :
    writeContainer params 1 0 2 0 0 [0] [] [] = hdr 1 0 2 0 0 ++ [0, 0, 0, 0] ∧
      outcome params (writeContainer params 1 0 2 0 0 [0] [] []) = .error (.truncatedStream 1 0) := by
  decide

/-! ### Steps -/

/-- A state with parameters a test can evaluate. -/
def start (requests : List Request) (reading : Option Reading) : State :=
  { State.reset with params := params, requests := requests, reading := reading }

/-- The word placed after reset runs in the next step: ADD r1, r2, r3 (R130). -/
theorem test_step_runs_word :
    (nextOf (step (State.reset.withFetchWord 32 0x0E010203))).map (fun t => (t.iwdOut.mn, t.iwdOut.roles)) =
      some (14, .abc 1 2 3) := by decide

/-- Reading C12's image: the header is checked, then a reading is under way (R48). -/
theorem test_step_starts_reading :
    (nextOf (step (start [.readImage (Image.ofBytes (hdr 1 0 1 1 0 ++ [0, 0, 0, 0]))] none))).map
        (fun t => (t.requests, t.reading.map (·.header.n), t.status)) = some ([], some 1, none) := by
  decide

/-- A word cut short raises, drops the listing so far and keeps the other requests (R254, R258). -/
theorem test_step_truncated :
    (nextOf (step (start [.cancel] (some ⟨⟨21, []⟩, ⟨params.magic, 1, 0, 1, 0, 0⟩, [], [], []⟩)))).map
        (fun t => (t.reading, t.status.map conditionCode, t.requests.length)) =
      some (none, some 4, 1) := by decide

/-! ### Witnesses: states and operands that meet the hypotheses of the statements, at boundary values -/

/-- A registry with HALT alone, admitted for version 1 alone. -/
def haltOnly : Params := { params with opreg := [⟨none, 0, .halt⟩], admitted := .only [1] }

/-- A registry that names no opcode. -/
def noRows : Params := { params with opreg := [] }

/-- An image with one word, one constant and one global. -/
def small : Image := Image.ofBytes (hdr 1 0 1 1 1 ++ [3, 2, 1, 0x0E, 3, 0x2A, 0, 0, 0, 0, 0, 0, 0,
  1, 1, 0, 0, 0, 0, 0, 0, 0])

/-- `small` with its header read and no section begun. -/
def begun : Reading := ⟨small, small.header, [], [], []⟩

/-- The families' statements (O1 to O10): every mnemonic has a byte the registry maps to it. -/
theorem witness_every_mnemonic_named :
    allMnemonics.all (fun m => opReg resetParams 0
      (opField (packBytes ((mnInfo m).id.setWidth 8) 1 2 3)) == some m) = true ∧
      allMnemonics.length = 88 := by decide

/-- `Admissible` and an admitted version, with a byte that is named (ControlFlowDecodesAsRuled,
OpnumInvertsOpreg). -/
theorem witness_admissible :
    Admissible haltOnly ∧ admits haltOnly 1 = true ∧ opReg haltOnly 1 0 = some .halt ∧
      opNum haltOnly 1 .halt = some 0 := by
  have h : ∀ op : Byte, opReg haltOnly 1 op = if op = 0 then some .halt else none := by decide
  refine ⟨fun ver hv => ?_, rfl, rfl, rfl⟩
  have hv : ver = 1 := by simpa [admits, haltOnly] using hv
  subst hv
  refine ⟨rfl, rfl, fun op op' m h1 h2 => ?_⟩
  rw [h] at h1 h2
  split at h1
  · split at h2
    · simp_all
    · cases h2
  · cases h1

/-- UnknownOpcodeFallsBack, UnadmittedVersionsDecodeUnknown. -/
theorem witness_unnamed_byte :
    opReg resetParams 0 88 = none ∧ opReg resetParams 0 250 = none ∧ opReg resetParams 0 255 = none ∧
      admits haltOnly 0 = false ∧ admits haltOnly 2 = false := by decide

/-- WordPackingRoundTrips: both ends of the domain, and both sides outside it. -/
theorem witness_opcode_domain :
    ((0 : Int) ≤ 0 ∧ (0 : Int) < 256) ∧ ((0 : Int) ≤ 255 ∧ (255 : Int) < 256) ∧
      ((-1 : Int) < 0 ∨ (256 : Int) ≤ -1) ∧ ((256 : Int) < 0 ∨ (256 : Int) ≤ 256) := by decide

/-- DecodeOfEncodeIsTheInstruction, EncodeOfDecodeIsTheWord. -/
theorem witness_wellformed :
    (Instr.add 0x0E 1 2 3).WellFormed resetParams 0 = true ∧
      (Instr.jmp 2 0x800000).WellFormed resetParams 0 = true ∧
      (Instr.unknown 250 1 2 3).WellFormed resetParams 0 = true ∧
      ([1, 2, 3] : List Byte).length < 4 ∧ 4 ≤ ([1, 2, 3, 4] : List Byte).length := by decide

/-- SignedFieldLaws: the ends of the range for N = 16. -/
theorem witness_signed_range :
    (-2 ^ (16 - 1) ≤ (-32768 : Int) ∧ (-32768 : Int) < 2 ^ (16 - 1)) ∧
      (-2 ^ (16 - 1) ≤ (32767 : Int) ∧ (32767 : Int) < 2 ^ (16 - 1)) := by decide

/-- LoadiAndJmpPackersWrap: helpers with an opcode, and without. -/
theorem witness_pack_helpers :
    loadiFields params 0 1 40000 = some ⟨7, 1, 0x9C, 0x40⟩ ∧
      jmpFields params 0 (-3) = some ⟨2, 0xFF, 0xFF, 0xFD⟩ ∧
      loadiFields noRows 0 1 1 = none ∧ jmpFields noRows 0 1 = none := by decide

/-- TestRegistryMeetsTheConstraints. -/
theorem witness_regT : resetParams.opreg = regT ∧ admits resetParams 65535 = true := ⟨rfl, rfl⟩

/-- VersionChangesNoRawPort: two parameter sets that agree on a byte. -/
theorem witness_registries_agree :
    opReg params 1 (opField 0x00010203) = opReg haltOnly 1 (opField 0x00010203) := by decide

/-- UnusedFieldsHaveNoEffect: a mnemonic of each of the four forms. -/
theorem witness_unused_fields :
    (opReg params 0 0x13 = some .neg ∧ (mnInfo .neg).form = .a) ∧
      (opReg params 0 5 = some .copy ∧ (mnInfo .copy).form = .ab) ∧
      (opReg params 0 8 = some .loadc ∧ (mnInfo .loadc).form = .aidx) ∧
      (opReg params 0 3 = some .jmpif ∧ (mnInfo .jmpif).form = .aoff8) := by decide

/-- InstructionsChangeOnlyIwdOutputs: a reading before and after an instruction. -/
theorem witness_frame : ∃ r t, (start [] (some begun)).reading = some r ∧
    exec (.storeg 0x0A 1 0 0) (start [] (some begun)) = .next t ∧ t.reading = some r :=
  ⟨_, _, rfl, rfl, rfl⟩

/-- SlotKindsDecodeAsRuled: each tag, and both sides of the last known one. -/
theorem witness_slot_tags :
    ([0, 1, 2, 3, 4, 5, 6, 7] : List Byte).all (fun t => (⟨t, 1⟩ : Slot).tag.toNat ≤ 7) = true ∧
      7 < (⟨8, 1⟩ : Slot).tag.toNat ∧ 7 < (⟨255, 1⟩ : Slot).tag.toNat := by decide

/-- SlotLengthIsCheckedFirst: a short, a long and an exact byte string, and a short port. -/
theorem witness_slot_lengths :
    ([1, 0, 0, 0, 0, 0, 0, 0] : List Byte).length ≠ 9 ∧
      ([1, 0, 0, 0, 0, 0, 0, 0, 0, 0] : List Byte).length ≠ 9 ∧
      ([1, 0, 0, 0, 0, 0, 0, 0, 0] : List Byte).length = 9 ∧ (15 : BitVec 4) ≠ 9 := by decide

/-- ValuesEncodeAsRuled: the ends of each domain, and the first values outside it. -/
theorem witness_value_domains :
    ((0 : Int) ≤ 2 ^ 64 - 1 ∧ (2 ^ 64 - 1 : Int) ≤ 2 ^ 64 - 1) ∧ (-1 : Int) < 0 ∧
      (2 ^ 64 - 1 : Int) < 2 ^ 64 ∧ (-2 ^ 63 ≤ (-2 ^ 63 : Int) ∧ (-2 ^ 63 : Int) ≤ 2 ^ 63 - 1) ∧
      (-2 ^ 63 - 1 : Int) < -2 ^ 63 ∧ (2 ^ 63 - 1 : Int) < 2 ^ 63 ∧
      (2 ^ 32 - 1 < 2 ^ 32 ∧ 2 ^ 16 - 1 < 2 ^ 16) ∧ 2 ^ 32 ≤ 2 ^ 32 ∧ 2 ^ 16 ≤ 65536 := by decide

/-- TypedValuesRoundTrip: a value that encodes, and an unknown tag. -/
theorem witness_round_trip :
    sve 0 (.i64 (-1)) = some ⟨3, 0xFFFFFFFFFFFFFFFF⟩ ∧ sve 0 (.unknown 9 5) = some ⟨9, 5⟩ ∧
      tagReg 0 9 = none := by decide

/-- ReaderRunsReadContainer, BatchFilesAreIndependent: an idle state asked to read two images. -/
theorem witness_read_requests :
    (start [.readImage small, .readImage ⟨0, []⟩, .cancel] none).reading = none ∧
      (start [.readImage small, .readImage ⟨0, []⟩, .cancel] none).requests =
        [small, ⟨0, []⟩].map Request.readImage ++ [.cancel] := by decide

/-- WrittenImagesReadBack: counts that equal the lengths of the content. -/
theorem witness_counts_match :
    (2 : BitVec 32).toNat = ([0x0E010203, 0] : List Word).length ∧
      (1 : BitVec 32).toNat = ([⟨3, 42⟩] : List Slot).length ∧
      (0 : BitVec 32).toNat = ([] : List Slot).length := by decide

/-- TrailingBytesAreIgnored, ListingExactlyWhenTheCountsFit: an image that lists. -/
theorem witness_listing :
    readContainer params (Image.ofBytes (hdr 1 0 0 0 0)) = .ok ⟨⟨params.magic, 1, 0, 0, 0, 0⟩, [], [], []⟩ := by
  decide

/-- HeaderConditions: each clause, at 19 and at 20 bytes. -/
theorem witness_header_conditions :
    (Image.ofBytes ((hdr 1 0 0 0 0).take 19)).len < 20 ∧
      (20 ≤ (Image.ofBytes (hdr 1 0 0 0 0)).len ∧ noRows.strictMagic = true ∧
        (Image.ofBytes (0x40 :: (hdr 1 0 0 0 0).drop 1)).magic ≠ noRows.magic) ∧
      { params with strictMagic := false }.strictMagic = false ∧
      (Image.ofBytes (hdr 1 0 0 0 0)).magic = params.magic := by decide

/-- StreamCutShortRaisesAtFirstWord: cut at the end of word 0 and inside word 1 of two. -/
theorem witness_stream_cut :
    let img := Image.ofBytes (hdr 1 0 2 0 0 ++ [0, 0, 0, 0])
    let img' := Image.ofBytes (hdr 1 0 2 0 0 ++ [0, 0, 0, 0, 0, 0, 0])
    (readHeader params img = .ok img.header ∧ 1 < img.header.n.toNat ∧ 20 + 4 * 1 ≤ img.len ∧
        img.len < 20 + 4 * (1 + 1)) ∧
      readHeader params img' = .ok img'.header ∧ 1 < img'.header.n.toNat ∧ 20 + 4 * 1 ≤ img'.len ∧
        img'.len < 20 + 4 * (1 + 1) := by decide

/-- SlotCutShortRaisesAtFirstSlot: a constant section and a global section cut short. -/
theorem witness_slot_cut :
    let img := Image.ofBytes (hdr 1 0 0 1 0 ++ [3, 0x2A, 0, 0, 0])
    let img' := Image.ofBytes (hdr 1 0 0 0 1)
    (readHeader params img = .ok img.header ∧ 0 < img.header.k.toNat ∧
        20 + 4 * img.header.n.toNat + 9 * 0 ≤ img.len ∧
        img.len < 20 + 4 * img.header.n.toNat + 9 * (0 + 1)) ∧
      readHeader params img' = .ok img'.header ∧ 0 < img'.header.m.toNat ∧
        20 + 4 * img'.header.n.toNat + 9 * img'.header.k.toNat + 9 * 0 ≤ img'.len ∧
        img'.len < 20 + 4 * img'.header.n.toNat + 9 * img'.header.k.toNat + 9 * (0 + 1) := by decide

/-- StepRunsTheDecodedInstruction: a word at its place in the image, and a word request. -/
theorem witness_step_runs :
    ((start [] (some begun)).reading = some begun ∧ begun.words.length < begun.header.n.toNat ∧
        decode params begun.header.ver (begun.image.readBytes (wordOffset begun.words.length) 4) =
          .ok (.add 0x0E 1 2 3, [])) ∧
      (start [.decodeWord 0x0E010203 1] none).reading = none ∧
      (start [.decodeWord 0x0E010203 1] none).requests = .decodeWord 0x0E010203 1 :: [] := by decide

/-- PlacedWordRunsNext: after reset, and with a reading under way; the smallest and the largest word. -/
theorem witness_placed_word :
    (∀ r, State.reset.reading = some r → r.image.wf = true) ∧
      (∀ r, (start [] (some begun)).reading = some r → r.image.wf = true) ∧
      0 < 2 ^ 32 ∧ 0xFFFFFFFF < 2 ^ 32 := by
  refine ⟨?_, ?_, by decide, by decide⟩
  · intro r h
    cases h
  · intro r h
    cases h
    exact Image.wf_ofBytes _

/-- ConditionEndsOnlyItsOperation: each of its clauses, the last for both pools, with a request waiting. -/
theorem witness_conditions :
    let w : Reading := ⟨⟨21, []⟩, ⟨params.magic, 1, 0, 1, 0, 0⟩, [], [], []⟩
    let c : Reading := ⟨⟨28, []⟩, ⟨params.magic, 1, 0, 0, 1, 0⟩, [], [], []⟩
    let g : Reading := ⟨⟨20, []⟩, ⟨params.magic, 1, 0, 0, 0, 1⟩, [], [], []⟩
    ((start [.readImage ⟨19, []⟩, .cancel] none).reading = none ∧
        readHeader params ⟨19, []⟩ = .error (.truncatedHeader 19)) ∧
      ((start [.cancel] (some w)).reading = some w ∧ w.words.length < w.header.n.toNat ∧
        w.image.len < wordOffset (w.words.length + 1)) ∧
      ((start [.cancel] (some c)).reading = some c ∧ c.takesSlot .const ∧
        c.image.len < slotOffset c.header .const (c.entries .const).length + 9) ∧
      (start [.cancel] (some g)).reading = some g ∧ g.takesSlot .global ∧
        g.image.len < slotOffset g.header .global (g.entries .global).length + 9 := by
  refine ⟨by decide, by decide, ⟨rfl, ⟨?_, ?_⟩, ?_⟩, rfl, ⟨?_, ?_, ?_⟩, ?_⟩ <;> decide

/-- PackRequestsAnswer: operands inside and outside each domain, asked of an idle state. -/
theorem witness_pack_requests :
    (start [.packWord 0 0 0 0] none).reading = none ∧
      (start [.packWord 0 0 0 0] none).requests = .packWord 0 0 0 0 :: [] ∧
      iwe ⟨0, 0, 0, 0⟩ = some 0 ∧ ((256 : Int) < 0 ∨ (256 : Int) ≤ 256) ∧
      (loadiFields params 0 1 (-1)).bind iwe = some 0x0701FFFF ∧
      (jmpFields params 0 (-3)).bind iwe = some 0x02FFFFFD ∧ sve 0 .nul = some ⟨0, 0⟩ ∧
      sve 0 (.u64 (-1)) = none := by decide

/-- SlotAndImageRequestsAnswer: a decodable slot and a short one, a write, a cancel and nothing, asked of
an idle state. -/
theorem witness_slot_requests :
    (start [.decodeSlot [0, 0, 0, 0, 0, 0, 0, 0, 0] 0] none).reading = none ∧
      svd 0 [0, 0, 0, 0, 0, 0, 0, 0, 0] = .decoded (svdSlot 0 ⟨0, 0⟩) ∧
      ([0, 0, 0, 0, 0, 0, 0, 0] : List Byte).length ≠ 9 ∧
      (start [.writeImage 1 0 2 0 0 [0] [] []] none).requests = .writeImage 1 0 2 0 0 [0] [] [] :: [] ∧
      (start [.cancel, .packWord 0 0 0 0] none).requests = .cancel :: [.packWord 0 0 0 0] ∧
      (start [] none).requests = [] := by decide

/-- StepKeepsImagesCanonical: a state with an image waiting and one being read, whose step answers. -/
theorem witness_images_canonical :
    ImagesCanonical (start [.readImage small] (some begun)) ∧
      (nextOf (step (start [.readImage small] (some begun)))).isSome = true := by
  have h : small.wf = true := Image.wf_ofBytes _
  refine ⟨⟨fun q hq => ?_, fun r hr => ?_, fun o ho => ?_⟩, by decide⟩
  · rcases List.mem_singleton.mp hq with rfl
    exact h
  · cases hr
    exact h
  · cases ho

/-- StepKeepsPortsCombinational: the reset ports, with a reading whose step drives IWD. -/
theorem witness_ports_combinational :
    PortsCombinational (start [] (some begun)) ∧
      (nextOf (step (start [] (some begun)))).map (·.iwdOut.mn) = some 14 := by
  refine ⟨⟨by decide, by decide, by decide, by decide⟩, by decide⟩

/-- StepKeepsReadingSound: a reading of a well-formed image, begun, whose step goes on. -/
theorem witness_reading_sound :
    ReadingSound (start [] (some begun)) ∧
      (nextOf (step (start [] (some begun)))).map (fun t => t.reading.map (·.words.length)) =
        some (some 1) := by
  refine ⟨fun r hr => ?_, by decide⟩
  cases hr
  refine ⟨⟨by decide, by decide, by decide, fun h => absurd rfl h, fun h => absurd rfl h⟩, by decide,
    fun i e h => ?_, fun pool j e h => ?_⟩
  · cases h
  · cases pool <;> cases h

/-- StepKeepsParameters, ReportsOnlyGrow: a step that reports. -/
theorem witness_step_reports :
    (nextOf (step (start [.packWord 0 0 0 0] none))).map (·.reports) = some [.packedWord 0] := by decide

/-- ReadingNeverWritesItsImage: a reading before and after a step. -/
theorem witness_reading_goes_on :
    (start [] (some begun)).reading = some begun ∧
      (nextOf (step (start [] (some begun)))).map (fun t => t.reading.isSome) = some true := by decide

/-- RefusalsAreThePackSides: each of the four refusals. -/
theorem witness_refusals :
    step (start [.packWord 256 0 0 0] none) = .refused (.opcodeOutOfRange 256) ∧
      step (start [.packSlot 0 (.u64 (-1))] none) = .refused (.valueOutOfRange (.u64 (-1))) ∧
      step { start [.packLoadi 0 1 1] none with params := noRows } = .refused (.noOpcode .loadi) ∧
      step { start [.packJmp 0 1] none with params := noRows } = .refused (.noOpcode .jmp) :=
  ⟨rfl, rfl, rfl, rfl⟩

/-- WriterWritesContentWhateverTheCounts: content of each section, at both ends of a list of two. -/
theorem witness_content :
    ([5, 6] : List Word)[0]? = some 5 ∧ ([5, 6] : List Word)[1]? = some 6 ∧
      ([⟨0, 0⟩] : List Slot)[0]? = some ⟨0, 0⟩ := by decide

/-- NonAsciiMagicIsRejected: the smallest byte that is not ASCII, first and last of the four. -/
theorem witness_non_ascii_magic :
    let img := Image.ofBytes (0x80 :: (hdr 1 0 0 0 0).drop 1)
    let img' := Image.ofBytes ((hdr 1 0 0 0 0).take 3 ++ 0xFF :: (hdr 1 0 0 0 0).drop 4)
    params.strictMagic = true ∧ 20 ≤ img.len ∧ img.byteAt 0 = some 0x80 ∧ 20 ≤ img'.len ∧
      img'.byteAt 3 = some 0xFF ∧ 128 ≤ (0x80 : Byte).toNat ∧ 128 ≤ (0xFF : Byte).toNat := by decide

end Sys2Proof.Tests
end

section
/-! PROOFS. The statements about 00_scope.md: what a step refuses (R12), and the magic of an image (R6). -/

namespace Sys2Proof

/-! ### The literal MAGIC -/

/-- The four bytes of a magic in file order (R42). -/
def Magic.toList (m : Magic) : List Byte := [m.b0, m.b1, m.b2, m.b3]

/-- A code of 7 bits, as a byte, is below 128 (R6). -/
theorem toNat_setWidth_code_lt (c : BitVec 7) : (c.setWidth 8).toNat < 128 := by
  rw [BitVec.toNat_setWidth_of_le (by decide)]
  exact c.isLt

/-- Every byte of `MAGIC` is ASCII, whatever `MAGIC` is (R6). -/
theorem Params.magic_toNat_lt (p : Params) : ∀ b ∈ p.magic.toList, b.toNat < 128 := by
  simp only [Params.magic, AsciiMagic.bytes, Magic.toList, List.forall_mem_cons]
  exact ⟨toNat_setWidth_code_lt _, toNat_setWidth_code_lt _, toNat_setWidth_code_lt _,
    toNat_setWidth_code_lt _, by simp⟩

end Sys2Proof

namespace Sys2Proof.Machine

/-! ### The registry and its inverse -/

/-- The byte `OPNUM` gives is one the registry maps to the mnemonic (R82). -/
theorem opReg_of_opNum {p : Params} {ver : Version} {m : Mnemonic} {op : Byte}
    (h : opNum p ver m = some op) : opReg p ver op = some m := by
  obtain ⟨row, hfind, rfl⟩ := Option.map_eq_some_iff.mp h
  have hrow := List.find?_some hfind
  simp only [Bool.and_eq_true, beq_iff_eq] at hrow
  exact hrow.2

/-- A byte the registry maps to a mnemonic comes from one of its rows. -/
theorem exists_row_of_opReg {p : Params} {ver : Version} {m : Mnemonic} {op : Byte}
    (h : opReg p ver op = some m) : ∃ row ∈ p.opreg, row.op = op ∧ row.mn = m := by
  rw [opReg] at h
  split at h
  · obtain ⟨row, hfind, hmn⟩ := Option.map_eq_some_iff.mp h
    have hmatch := List.find?_some hfind
    simp only [rowMatches, Bool.and_eq_true, beq_iff_eq] at hmatch
    exact ⟨row, List.mem_of_find?_eq_some hfind, hmatch.1, hmn⟩
  · cases h

/-- `OPNUM` gives no byte exactly where the registry maps none to the mnemonic (R82). -/
theorem opNum_eq_none_iff (p : Params) (ver : Version) (m : Mnemonic) :
    opNum p ver m = none ↔ ∀ op, opReg p ver op ≠ some m := by
  constructor
  · intro hnone op hop
    obtain ⟨row, hmem, rfl, hmn⟩ := exists_row_of_opReg hop
    have hrow := List.find?_eq_none.mp (Option.map_eq_none_iff.mp hnone) row hmem
    simp [hmn, hop] at hrow
  · intro hreg
    cases hnum : opNum p ver m with
    | none => rfl
    | some op => exact absurd (opReg_of_opNum hnum) (hreg op)

/-- The LOADI helper has no fields exactly where the registry names no opcode for LOADI (log 16). -/
theorem loadiFields_eq_none_iff (p : Params) (ver : Version) (dst v : Int) :
    loadiFields p ver dst v = none ↔ ∀ op, opReg p ver op ≠ some .loadi := by
  rw [loadiFields, Option.map_eq_none_iff, opNum_eq_none_iff]

/-- The JMP helper has no fields exactly where the registry names no opcode for JMP (log 16). -/
theorem jmpFields_eq_none_iff (p : Params) (ver : Version) (v : Int) :
    jmpFields p ver v = none ↔ ∀ op, opReg p ver op ≠ some .jmp := by
  rw [jmpFields, Option.map_eq_none_iff, opNum_eq_none_iff]

/-! ### What a request refuses -/

/-- IWE refuses exactly the opcodes outside 0..255 (R72). -/
theorem iwe_eq_none_iff (i : IweIn) : iwe i = none ↔ i.op < 0 ∨ 256 ≤ i.op := by
  rw [iwe]
  split
  · simp only [reduceCtorEq, false_iff]
    omega
  · simp only [true_iff]
    omega

/-- The request is one the pack side refuses under these parameters, and `q` is the refusal (R12). -/
def PackRefuses (p : Params) (rq : Request) (q : Refusal) : Prop :=
  (∃ op a b c, rq = .packWord op a b c ∧ (op < 0 ∨ 256 ≤ op) ∧ q = .opcodeOutOfRange op) ∨
    (∃ ver v, rq = .packSlot ver v ∧ sve ver v = none ∧ q = .valueOutOfRange v) ∨
    (∃ ver dst v, rq = .packLoadi ver dst v ∧ (∀ op, opReg p ver op ≠ some .loadi) ∧
      q = .noOpcode .loadi) ∨
    (∃ ver v, rq = .packJmp ver v ∧ (∀ op, opReg p ver op ≠ some .jmp) ∧ q = .noOpcode .jmp)

/-- A request the pack side refuses is answered by that refusal. -/
theorem serve_of_packRefuses {rq : Request} {q : Refusal} (s : State)
    (h : PackRefuses s.params rq q) : serve rq s = .refused q := by
  rcases h with ⟨op, a, b, c, rfl, hop, rfl⟩ | ⟨ver, v, rfl, hv, rfl⟩ |
    ⟨ver, dst, v, rfl, hreg, rfl⟩ | ⟨ver, v, rfl, hreg, rfl⟩
  · have hiwe : iwe ⟨op, a, b, c⟩ = none := (iwe_eq_none_iff _).mpr hop
    simp only [serve, packStep, hiwe]
  · simp only [serve, packSlotStep, hv]
  · simp only [serve, (loadiFields_eq_none_iff s.params ver dst v).mpr hreg]
  · simp only [serve, (jmpFields_eq_none_iff s.params ver v).mpr hreg]

/-- Every request is answered by a next state or is one the pack side refuses (R12). -/
theorem serve_next_or_packRefuses (rq : Request) (s : State) :
    (∃ t, serve rq s = .next t) ∨ ∃ q, PackRefuses s.params rq q := by
  rcases serve_cases rq s with
    ⟨_, _, _, _, h⟩ | ⟨_, _, _, h⟩ | ⟨_, _, _, _, _, _, _, _, _, h⟩ | ⟨_, _, _, _, _, h⟩ |
    ⟨_, _, _, _, h⟩ | ⟨_, _, _, h⟩ | ⟨_, _, _, _, h⟩ | ⟨op, a, b, c, hrq, hop, _⟩ |
    ⟨ver, dst, v, hrq, hf, _⟩ | ⟨ver, v, hrq, hf, _⟩ | ⟨_, _, _, _, _, h⟩ |
    ⟨ver, v, hrq, hv, _⟩ | ⟨_, h⟩
  · exact .inl ⟨_, h⟩
  · exact .inl ⟨_, h⟩
  · exact .inl ⟨_, h⟩
  · exact .inl ⟨_, h⟩
  · exact .inl ⟨_, h⟩
  · exact .inl ⟨_, h⟩
  · exact .inl ⟨_, h⟩
  · exact .inr ⟨_, .inl ⟨op, a, b, c, hrq, hop, rfl⟩⟩
  · exact .inr ⟨_, .inr (.inr (.inl
      ⟨ver, dst, v, hrq, (loadiFields_eq_none_iff ..).mp hf, rfl⟩))⟩
  · exact .inr ⟨_, .inr (.inr (.inr ⟨ver, v, hrq, (jmpFields_eq_none_iff ..).mp hf, rfl⟩))⟩
  · exact .inl ⟨_, h⟩
  · exact .inr ⟨_, .inr (.inl ⟨ver, v, hrq, hv, rfl⟩)⟩
  · exact .inl ⟨_, h⟩

/-! ### What a step refuses -/

/-- A step of a reading answers a next state: the decode side refuses nothing (R12). -/
theorem readingStep_next (r : Reading) (s : State) : ∃ t, readingStep r s = .next t := by
  rcases readingStep_cases r s with ⟨_, h⟩ | ⟨_, _, h⟩ | ⟨_, _, _, h⟩ | ⟨_, _, _, h⟩
  · rcases readWordStep_cases r s with ⟨_, _, _, _, _, _, _, _, hw⟩ | ⟨_, hw⟩
    · exact ⟨_, h.trans hw⟩
    · exact ⟨_, h.trans hw⟩
  all_goals exact ⟨_, h⟩

/-- The next request is one the pack side refuses, no reading being under way. -/
def StepRefuses (s : State) (q : Refusal) : Prop :=
  s.reading = none ∧ ∃ rq qs, s.requests = rq :: qs ∧ PackRefuses s.params rq q

theorem step_of_stepRefuses {s : State} {q : Refusal} (h : StepRefuses s q) :
    step s = .refused q := by
  obtain ⟨hr, rq, qs, hq, hp⟩ := h
  rw [step_serve s rq qs hr hq]
  exact serve_of_packRefuses _ hp

theorem step_next_or_stepRefuses (s : State) :
    (∃ t, step s = .next t) ∨ ∃ q, StepRefuses s q := by
  cases hr : s.reading with
  | some r => exact .inl (step_reading s r hr ▸ readingStep_next r s)
  | none =>
    cases hq : s.requests with
    | nil => exact .inl ⟨s, step_idle s hr hq⟩
    | cons rq qs =>
      rw [step_serve s rq qs hr hq]
      exact (serve_next_or_packRefuses rq { s with requests := qs }).imp_right
        fun ⟨q, hp⟩ => ⟨q, hr, rq, qs, hq, hp⟩

/-- A step refuses exactly where `StepRefuses` says. -/
theorem step_refused_iff (s : State) (q : Refusal) : step s = .refused q ↔ StepRefuses s q := by
  refine ⟨fun h => ?_, step_of_stepRefuses⟩
  rcases step_next_or_stepRefuses s with ⟨t, ht⟩ | ⟨q', hq'⟩
  · cases h.symm.trans ht
  · cases h.symm.trans (step_of_stepRefuses hq')
    exact hq'

/-- Settles O54, from what a step can do and the exact condition under which it refuses. -/
theorem refusalsAreThePackSides : Obligations.RefusalsAreThePackSides := fun s =>
  ⟨(step_next_or_stepRefuses s).imp_right fun ⟨q, hq⟩ => ⟨q, step_of_stepRefuses hq⟩,
    step_refused_iff s⟩

/-! ### The magic of an image -/

/-- The byte at `o` is the number `LE_1` reads there (R9). -/
theorem Image.ofNat_le_one {img : Image} {o : Nat} {b : Byte} (h : img.byteAt o = some b) :
    BitVec.ofNat 8 (img.le o 1) = b := by
  simp [Image.le, Image.readBytes, h, leNat]

/-- Each of the first four bytes of an image is a byte of its magic (R42, R43). -/
theorem Image.mem_magic {img : Image} {o : Nat} {b : Byte} (ho : o < 4)
    (h : img.byteAt o = some b) : b ∈ img.magic.toList := by
  have hmagic : img.magic.toList = (List.range 4).map fun i => BitVec.ofNat 8 (img.le i 1) := rfl
  rw [hmagic]
  exact List.mem_map.mpr ⟨o, List.mem_range.mpr ho, Image.ofNat_le_one h⟩

/-- A byte that is not ASCII among the first four makes the magic differ from `MAGIC`. -/
theorem Image.magic_ne_of_nonAscii (p : Params) {img : Image} {o : Nat} {b : Byte} (ho : o < 4)
    (h : img.byteAt o = some b) (hb : 128 ≤ b.toNat) : img.magic ≠ p.magic := by
  intro heq
  have hlt := p.magic_toNat_lt b (heq ▸ Image.mem_magic ho h)
  omega

/-- A strict reading of a whole header with another magic is `BadMagic` (R43, R253). -/
theorem readContainer_badMagic {p : Params} {img : Image} (hs : p.strictMagic = true)
    (hl : 20 ≤ img.len) (hm : img.magic ≠ p.magic) :
    readContainer p img = .error (.badMagic img.magic) := by
  rcases readHeader_cases p img with ⟨hshort, _⟩ | ⟨_, _, _, h⟩ | ⟨_, hok, _⟩
  · omega
  · simp only [readContainer, h]
  · simp [hs, hm] at hok

/-- Settles O58: `MAGIC` is ASCII by its type, so a magic with another byte is not it. -/
theorem nonAsciiMagicIsRejected : Obligations.NonAsciiMagicIsRejected := by
  intro p
  have hascii := p.magic_toNat_lt
  simp only [Magic.toList, List.forall_mem_cons] at hascii
  obtain ⟨h0, h1, h2, h3, _⟩ := hascii
  exact ⟨⟨h0, h1, h2, h3⟩, fun _ _ _ hs hl ho h hb =>
    readContainer_badMagic hs hl (Image.magic_ne_of_nonAscii p ho h hb)⟩

end Sys2Proof.Machine
end

section
/-! PROOFS. The statements about 10_state.md: the ports as functions of their inputs (R20, R29),
what an instruction and a step leave unchanged (R23, R28), and what the requests give (R25 to R27). -/

namespace Sys2Proof.Machine

/-! ### The instructions' meanings and the dispatch -/

/-- The meaning of a known mnemonic's instruction drives the outputs the tables of R81 and R74 give:
the row of the mnemonic, and `simm` and the roles of its form. -/
theorem exec_instrOf (m : Mnemonic) (op a b c : Byte) (s : State) :
    exec (instrOf m op a b c) s = .next (s.driveIwdOut
      { op := op, fa := a, fb := b, fc := c, known := true, mn := (mnInfo m).id
        form := formCode (mnInfo m).form, cat := catCode (mnInfo m).cat
        ty := tyCode (mnInfo m).ty, ty2 := tyCode (mnInfo m).ty2
        simm := simmOf (mnInfo m).form a b c, roles := rolesOf (mnInfo m).form a b c }) := by
  cases m
  case jmp =>
    simp only [instrOf, exec, execJmp, iwdOff24, bits_high_24, bits_mid_24, bits_low_24]
    rfl
  case loadi =>
    simp only [instrOf, exec, execLoadi, iwdAimm16, bits_high_16, bits_low_16]
    rfl
  all_goals rfl

/-- The 89 meanings agree with the dispatch: the instruction a word decodes to drives IWD's outputs
for that word (R83; R87 where the registry names nothing). -/
theorem exec_decodeWord (p : Params) (ver : Version) (w : Word) (s : State) :
    exec (decodeWord p ver w) s = .next (s.driveIwdOut (iwd p ver w)) := by
  rw [decodeWord, iwd]
  cases opReg p ver (opField w) with
  | none => rfl
  | some m => exact exec_instrOf m _ _ _ _ s

/-- Presenting a word to IWD drives its input ports with the word and its output ports with the
function of it (R24, R83). -/
theorem runWord_eq (iw : Word) (ver : Version) (s : State) :
    runWord iw ver s = .next ((s.driveIwdIn iw ver).driveIwdOut (iwd s.params ver iw)) :=
  exec_decodeWord s.params ver iw _

/-- Settles O24: a meaning drives IWD's output ports and nothing else. -/
theorem instructionsChangeOnlyIwdOutputs : Obligations.InstructionsChangeOnlyIwdOutputs := by
  intro i s
  obtain ⟨o, hexec⟩ := exec_next i s
  refine ⟨_, hexec, rfl, rfl, rfl, rfl, rfl, rfl, rfl, rfl, rfl, rfl, rfl, rfl, ?_⟩
  intro r r' a hr hr'
  have hsame : r' = r := Option.some.inj (hr'.symm.trans hr)
  rw [hsame]

/-! ### The parameters and the ports of a state -/

/-- What the units read and write: the parameters and the ports (R24 to R28). -/
structure Ports where
  params : Params
  iwdIn : IwdIn
  iwdOut : IwdOut
  svdIn : SvdIn
  svdOut : SvdResult
  iweIn : IweIn
  iweOut : Word
  sveIn : SveIn
  sveOut : Slot

/-- The parameters and the ports of a state. -/
def State.ports (s : State) : Ports :=
  ⟨s.params, s.iwdIn, s.iwdOut, s.svdIn, s.svdOut, s.iweIn, s.iweOut, s.sveIn, s.sveOut⟩

@[simp] theorem State.complete_ports (s : State) (r : Report) :
    (s.complete r).ports = s.ports := rfl
@[simp] theorem State.raise_ports (s : State) (c : Condition) : (s.raise c).ports = s.ports := rfl
@[simp] theorem State.startReading_ports (s : State) (img : Image) (h : Header) :
    (s.startReading img h).ports = s.ports := rfl
@[simp] theorem State.recordWord_ports (s : State) (r : Reading) :
    (s.recordWord r).ports = s.ports := rfl
@[simp] theorem State.recordSlot_ports (s : State) (r : Reading) (pool : Pool) (o : SvdOut) :
    (s.recordSlot r pool o).ports = s.ports := by cases pool <;> rfl

/-- Ports before and after the use of at most one unit: the unit used has new inputs and the outputs
it gives for them, and everything else stays. -/
inductive UnitUse (P : Ports) : Ports → Prop
  | unused : UnitUse P P
  | usedIwd (iw : Word) (ver : Version) :
    UnitUse P { P with iwdIn := ⟨iw, ver⟩, iwdOut := iwd P.params ver iw }
  | usedSvd (bytes : List Byte) (ver : Version) :
    UnitUse P { P with svdIn := ⟨bytes, ver⟩, svdOut := svd ver bytes }
  | usedIwe {i : IweIn} {w : Word} (h : iwe i = some w) :
    UnitUse P { P with iweIn := i, iweOut := w }
  | usedSve {ver : Version} {v : Value} {slot : Slot} (h : sve ver v = some slot) :
    UnitUse P { P with sveIn := ⟨ver, v⟩, sveOut := slot }

/-- Using a unit changes no parameter (R28). -/
theorem UnitUse.params_eq {P Q : Ports} (h : UnitUse P Q) : Q.params = P.params := by
  cases h <;> rfl

/-! ### What a step does to the ports -/

/-- Presenting a word is a use of IWD. -/
theorem unitUse_of_runWord {iw : Word} {ver : Version} {s t : State}
    (h : runWord iw ver s = .next t) : UnitUse s.ports t.ports := by
  cases (runWord_eq iw ver s).symm.trans h
  exact .usedIwd iw ver

/-- Reading a word uses IWD; a stream cut short uses no unit. -/
theorem unitUse_of_readWordStep {r : Reading} {s t : State} (h : readWordStep r s = .next t) :
    UnitUse s.ports t.ports := by
  rcases readWordStep_cases r s with ⟨_, _, _, _, _, _, _, hrun, hread⟩ | ⟨_, hread⟩
  · cases hread.symm.trans h
    rw [State.recordWord_ports]
    exact unitUse_of_runWord hrun
  · cases hread.symm.trans h
    exact .unused

/-- Reading a slot uses SVD, whether the slot is whole or cut short. -/
theorem unitUse_readSlotStep (pool : Pool) (r : Reading) (s : State) :
    UnitUse s.ports (readSlotStep pool r s).ports := by
  rcases readSlotStep_cases pool r s with ⟨slot, _, hread⟩ | ⟨_, bytes, _, _, hread⟩
  · rw [hread, State.recordSlot_ports]
    exact .usedSvd (slotBytes slot) r.header.ver
  · rw [hread, State.raise_ports]
    exact .usedSvd bytes r.header.ver

/-- A step of a reading uses IWD, SVD or, where it ends in the listing, no unit (R48). -/
theorem unitUse_of_readingStep {r : Reading} {s t : State} (h : readingStep r s = .next t) :
    UnitUse s.ports t.ports := by
  rcases readingStep_cases r s with ⟨_, hread⟩ | ⟨_, _, hread⟩ | ⟨_, _, _, hread⟩ | ⟨_, _, _, hread⟩
  · exact unitUse_of_readWordStep (hread.symm.trans h)
  · cases hread.symm.trans h
    exact unitUse_readSlotStep .const r s
  · cases hread.symm.trans h
    exact unitUse_readSlotStep .global r s
  · cases hread.symm.trans h
    exact .unused

/-- Serving a request uses at most the unit the request is for (R11). -/
theorem unitUse_of_serve {q : Request} {s t : State} (h : serve q s = .next t) :
    UnitUse s.ports t.ports := by
  rcases serve_cases q s with
    ⟨_, _, _, _, hs⟩ | ⟨_, _, _, hs⟩ | ⟨_, _, _, _, _, _, _, _, _, hs⟩ | ⟨_, _, _, _, hrun, hs⟩ |
    ⟨bytes, ver, _, _, hs⟩ | ⟨slot, ver, _, hs⟩ | ⟨_, _, hiwe, _, hs⟩ | ⟨_, _, _, _, _, _, hs⟩ |
    ⟨_, _, _, _, _, hs⟩ | ⟨_, _, _, _, hs⟩ | ⟨_, _, _, _, hsve, hs⟩ | ⟨_, _, _, _, hs⟩ | ⟨_, hs⟩
  all_goals cases hs.symm.trans h
  · exact .unused
  · exact .unused
  · exact .unused
  · rw [State.complete_ports]
    exact unitUse_of_runWord hrun
  · exact .usedSvd bytes ver
  · exact .usedSvd (slotBytes slot) ver
  · exact .usedIwe hiwe
  · exact .usedSve hsve
  · exact .unused

/-- A step that answers a next state has used at most one unit. -/
theorem unitUse_of_step {s t : State} (h : step s = .next t) : UnitUse s.ports t.ports := by
  cases hr : s.reading with
  | some r => exact unitUse_of_readingStep ((step_reading s r hr).symm.trans h)
  | none =>
    cases hq : s.requests with
    | nil =>
      cases (step_idle s hr hq).symm.trans h
      exact .unused
    | cons q qs =>
      exact unitUse_of_serve (s := { s with requests := qs })
        ((step_serve s q qs hr hq).symm.trans h)

/-- Settles O50: using a unit changes no parameter. -/
theorem stepKeepsParameters : Obligations.StepKeepsParameters := fun _ _ h =>
  (unitUse_of_step h).params_eq

/-! ### Outputs as functions of inputs -/

/-- `PortsCombinational` as a property of the parameters and the ports alone. -/
def Ports.Combinational (P : Ports) : Prop :=
  P.iwdOut = iwd P.params P.iwdIn.ver P.iwdIn.iw ∧ P.svdOut = svd P.svdIn.ver P.svdIn.bytes ∧
    iwe P.iweIn = some P.iweOut ∧ sve P.sveIn.ver P.sveIn.value = some P.sveOut

theorem portsCombinational_iff (s : State) : PortsCombinational s ↔ s.ports.Combinational :=
  Iff.rfl

/-- The unit used answers its function of the new inputs; the others keep inputs and outputs
(R20). -/
theorem UnitUse.combinational {P Q : Ports} (h : UnitUse P Q) (hP : P.Combinational) :
    Q.Combinational := by
  obtain ⟨hiwd, hsvd, hiwe, hsve⟩ := hP
  cases h with
  | unused => exact ⟨hiwd, hsvd, hiwe, hsve⟩
  | usedIwd => exact ⟨rfl, hsvd, hiwe, hsve⟩
  | usedSvd => exact ⟨hiwd, rfl, hiwe, hsve⟩
  | usedIwe h => exact ⟨hiwd, hsvd, h, hsve⟩
  | usedSve h => exact ⟨hiwd, hsvd, hiwe, h⟩

/-- Settles O46, from the unit a step uses: IWD's part of it is that the meanings agree with the
dispatch. -/
theorem stepKeepsPortsCombinational : Obligations.StepKeepsPortsCombinational := by
  intro s t hs h
  rw [portsCombinational_iff] at hs ⊢
  exact (unitUse_of_step h).combinational hs

/-- Settles O47: reset takes the outputs of IWD, SVD and SVE from their functions, and IWE packs the
zero byte as an opcode. -/
theorem resetPortsCombinational : Obligations.ResetPortsCombinational :=
  ⟨rfl, rfl, iwe_of_byte 0 0 0 0, rfl⟩

/-! ### What a request gives -/

theorem packStep_of_some {i : IweIn} {w : Word} (s : State) (h : iwe i = some w) :
    packStep i s = .next ((s.driveIwe i w).complete (.packedWord w)) := by
  simp only [packStep, h]

theorem packSlotStep_of_some {ver : Version} {v : Value} {slot : Slot} (s : State)
    (h : sve ver v = some slot) :
    packSlotStep ver v s = .next ((s.driveSve ver v slot).complete (.packedSlot slot)) := by
  simp only [packSlotStep, h]

/-- A LOADI request is a word request for the helper's fields (R76). -/
theorem serve_packLoadi {ver : Version} {dst v : Int} {f : IweIn} {s : State}
    (h : loadiFields s.params ver dst v = some f) :
    serve (.packLoadi ver dst v) s = packStep f s := by
  simp only [serve, h]

/-- A JMP request is a word request for the helper's fields (R78). -/
theorem serve_packJmp {ver : Version} {v : Int} {f : IweIn} {s : State}
    (h : jmpFields s.params ver v = some f) : serve (.packJmp ver v) s = packStep f s := by
  simp only [serve, h]

/-- SVE of a FLOAT: tag 4, the pattern in the low half, zeros above it (R228). -/
theorem sve_float (ver : Version) (f : BitVec 32) : sve ver (.float f) = some ⟨4, 0#32 ++ f⟩ := by
  have hpad : f.setWidth 64 = 0#32 ++ f := BitVec.setWidth_eq_append (by decide)
  rw [← hpad]
  rfl

/-- Settles O42: a pack request is served by IWE or SVE, or refused by them (R12). -/
theorem packRequestsAnswer : Obligations.PackRequestsAnswer := by
  intro s qs hr
  refine ⟨?word, ?opcode, ?loadi, ?jmp, ?slot, ?domain, ?host⟩
  case word =>
    intro op a b c w hq hiwe
    rw [step_serve s _ qs hr hq]
    exact packStep_of_some _ hiwe
  case opcode =>
    intro op a b c hq hop
    exact step_of_stepRefuses ⟨hr, _, qs, hq, .inl ⟨op, a, b, c, rfl, hop, rfl⟩⟩
  case loadi =>
    intro ver dst v f w hq hf hiwe
    rw [step_serve s _ qs hr hq, serve_packLoadi (s := { s with requests := qs }) hf]
    exact packStep_of_some _ hiwe
  case jmp =>
    intro ver v f w hq hf hiwe
    rw [step_serve s _ qs hr hq, serve_packJmp (s := { s with requests := qs }) hf]
    exact packStep_of_some _ hiwe
  case slot =>
    intro ver v slot hq hsve
    rw [step_serve s _ qs hr hq]
    exact packSlotStep_of_some _ hsve
  case domain =>
    intro ver v hq hsve
    exact step_of_stepRefuses ⟨hr, _, qs, hq, .inr (.inl ⟨ver, v, rfl, hsve, rfl⟩)⟩
  case host =>
    intro ver x hq
    rw [step_serve s _ qs hr hq]
    exact ⟨_, packSlotStep_of_some _ (sve_float ver _), rfl, rfl, rfl⟩

/-- SVD on bytes that are not 9 (R211). -/
theorem svd_of_length_ne {bytes : List Byte} (ver : Version) (h : bytes.length ≠ 9) :
    svd ver bytes = .malformed bytes.length := by
  rcases svd_cases ver bytes with ⟨_, hsvd⟩ | ⟨slot, rfl, _⟩
  · exact hsvd
  · exact absurd (length_slotBytes slot) h

theorem serve_decodeSlot_of_decoded {ver : Version} {bytes : List Byte} {o : SvdOut} (s : State)
    (h : svd ver bytes = .decoded o) :
    serve (.decodeSlot bytes ver) s = .next ((s.driveSvd bytes ver).complete (.slot o)) := by
  simp only [serve, State.driveSvd_svdOut, h]

theorem serve_decodeSlot_of_malformed {ver : Version} {bytes : List Byte} {len : Nat} (s : State)
    (h : svd ver bytes = .malformed len) :
    serve (.decodeSlot bytes ver) s =
      .next ((s.driveSvd bytes ver).raise (.malformedSlot len none)) := by
  simp only [serve, State.driveSvd_svdOut, h]

/-- Settles O43: a slot request is SVD's answer; a write, a cancel and an idle step are `step`'s own
equations. -/
theorem slotAndImageRequestsAnswer : Obligations.SlotAndImageRequestsAnswer := by
  intro s qs hr
  refine ⟨?decoded, ?malformed, ?write, ?cancel, step_idle s hr⟩
  case decoded =>
    intro bytes ver o hq hsvd
    rw [step_serve s _ qs hr hq, serve_decodeSlot_of_decoded _ hsvd, ← hsvd]
    rfl
  case malformed =>
    intro bytes ver hq hlen
    have hsvd := svd_of_length_ne ver hlen
    rw [step_serve s _ qs hr hq, serve_decodeSlot_of_malformed _ hsvd, ← hsvd]
    rfl
  case write =>
    intro ver flags n k m ws cs gs hq
    exact step_serve s _ qs hr hq
  case cancel =>
    intro hq
    exact step_serve s _ qs hr hq

end Sys2Proof.Machine
end

section
/-! PROOFS. The statements about 20_memory.md, the stepped reader: what a step does to the reading under
way, the requests and the reports (R48, R51), and that its steps give `ReadContainer`'s outcome (R48). -/

namespace Sys2Proof.Machine

/-! ### The header -/

/-- A header is read only where its bytes are there, and is the image's (R42, R48). -/
theorem readHeader_ok {p : Params} {img : Image} {h : Header} (hh : readHeader p img = .ok h) :
    20 ≤ img.len ∧ h = img.header := by
  rcases readHeader_cases p img with ⟨_, he⟩ | ⟨_, _, _, he⟩ | ⟨hlen, _, he⟩
  · cases he.symm.trans hh
  · cases he.symm.trans hh
  · exact ⟨hlen, (Except.ok.inj (he.symm.trans hh)).symm⟩

/-! ### One more entry of a reading -/

/-- The reading with one more word entered. -/
def Reading.addWord (r : Reading) (o : IwdOut) : Reading :=
  { r with words := r.words ++ [⟨r.words.length, o⟩] }

/-- The reading with one more slot of a pool entered. -/
def Reading.addSlot (r : Reading) (pool : Pool) (o : SvdOut) : Reading :=
  match pool with
  | .const => { r with consts := r.consts ++ [⟨.const, r.consts.length, o⟩] }
  | .global => { r with globals := r.globals ++ [⟨.global, r.globals.length, o⟩] }

theorem State.recordWord_reading_eq (s : State) (r : Reading) :
    (s.recordWord r).reading = some (r.addWord s.iwdOut) := rfl

theorem State.recordSlot_reading_eq (s : State) (r : Reading) (pool : Pool) (o : SvdOut) :
    (s.recordSlot r pool o).reading = some (r.addSlot pool o) := by cases pool <;> rfl

@[simp] theorem Reading.addWord_image (r : Reading) (o : IwdOut) : (r.addWord o).image = r.image := rfl
@[simp] theorem Reading.addWord_header (r : Reading) (o : IwdOut) :
    (r.addWord o).header = r.header := rfl
@[simp] theorem Reading.addWord_words (r : Reading) (o : IwdOut) :
    (r.addWord o).words = r.words ++ [⟨r.words.length, o⟩] := rfl
@[simp] theorem Reading.addWord_consts (r : Reading) (o : IwdOut) :
    (r.addWord o).consts = r.consts := rfl
@[simp] theorem Reading.addWord_globals (r : Reading) (o : IwdOut) :
    (r.addWord o).globals = r.globals := rfl
@[simp] theorem Reading.addWord_entries (r : Reading) (o : IwdOut) (pool : Pool) :
    (r.addWord o).entries pool = r.entries pool := by cases pool <;> rfl

@[simp] theorem Reading.addSlot_image (r : Reading) (pool : Pool) (o : SvdOut) :
    (r.addSlot pool o).image = r.image := by cases pool <;> rfl
@[simp] theorem Reading.addSlot_header (r : Reading) (pool : Pool) (o : SvdOut) :
    (r.addSlot pool o).header = r.header := by cases pool <;> rfl
@[simp] theorem Reading.addSlot_words (r : Reading) (pool : Pool) (o : SvdOut) :
    (r.addSlot pool o).words = r.words := by cases pool <;> rfl
@[simp] theorem Reading.addSlot_entries_same (r : Reading) (pool : Pool) (o : SvdOut) :
    (r.addSlot pool o).entries pool = r.entries pool ++ [⟨pool, (r.entries pool).length, o⟩] := by
  cases pool <;> rfl
theorem Reading.addSlot_entries_other (r : Reading) {pool pool' : Pool} (o : SvdOut)
    (h : pool' ≠ pool) : (r.addSlot pool o).entries pool' = r.entries pool' := by
  match pool, pool' with
  | .const, .global | .global, .const => rfl
  | .const, .const | .global, .global => exact absurd rfl h

/-- What a step of a reading that goes on makes of it: the entry of the next word, where words are left,
else of the next slot, each from the bytes at its place (R45, R46, R48). -/
inductive NextEntry (p : Params) (r : Reading) : Reading → Prop
  | word (b0 b1 b2 b3 : Byte) (hleft : r.words.length < r.header.n.toNat)
      (hbytes : r.image.readBytes (wordOffset r.words.length) 4 = [b0, b1, b2, b3]) :
      NextEntry p r (r.addWord (iwd p r.header.ver (wordOfBytes p.wordOrder b0 b1 b2 b3)))
  | slot (pool : Pool) (sl : Slot) (hturn : r.takesSlot pool)
      (hbytes : r.image.readBytes (slotOffset r.header pool (r.entries pool).length) 9 =
        slotBytes sl) :
      NextEntry p r (r.addSlot pool (svdSlot r.header.ver sl))

theorem NextEntry.image_eq {p : Params} {r r' : Reading} (h : NextEntry p r r') :
    r'.image = r.image := by
  cases h <;> simp

theorem NextEntry.header_eq {p : Params} {r r' : Reading} (h : NextEntry p r r') :
    r'.header = r.header := by
  cases h <;> simp

/-- The number of entries a reading still has to make. -/
def Reading.left (r : Reading) : Nat :=
  (r.header.n.toNat - r.words.length) + (r.header.k.toNat - r.consts.length) +
    (r.header.m.toNat - r.globals.length)

theorem NextEntry.left_eq {p : Params} {r r' : Reading} (h : NextEntry p r r') :
    r.left = r'.left + 1 := by
  cases h with
  | word _ _ _ _ hleft _ =>
    simp only [Reading.left, Reading.addWord_header, Reading.addWord_words, Reading.addWord_consts,
      Reading.addWord_globals, List.length_append, List.length_singleton]
    omega
  | slot pool sl hturn _ =>
    cases pool with
    | const =>
      obtain ⟨_, hleft⟩ := hturn
      simp only [Reading.left, Reading.addSlot, List.length_append, List.length_singleton]
      omega
    | global =>
      obtain ⟨_, _, hleft⟩ := hturn
      simp only [Reading.left, Reading.addSlot, List.length_append, List.length_singleton]
      omega

/-! ### Where a reading ends -/

/-- The word entries a reading ends with: those made, then those of the loop over the words left (R48). -/
def Reading.allWords (p : Params) (r : Reading) : Except Condition (List WordEntry) :=
  (readWords p r.image r.header.ver (r.header.n.toNat - r.words.length) r.words.length
    (wordOffset r.words.length)).map (r.words ++ ·)

/-- The number of slots the header gives a pool (R42). -/
def Header.slots (h : Header) : Pool → Nat
  | .const => h.k.toNat
  | .global => h.m.toNat

/-- The entries of a pool a reading ends with: those made, then those of the loop over the slots left
(R48). -/
def Reading.allSlots (r : Reading) (pool : Pool) : Except Condition (List SlotEntry) :=
  (readSlots r.image r.header.ver pool (r.header.slots pool - (r.entries pool).length)
    (r.entries pool).length (slotOffset r.header pool (r.entries pool).length)).map
    (r.entries pool ++ ·)

/-- What `ReadContainer` gives from where the reading stands: `outcome_begun` says that it is
`readContainer` at the start, `readingStep_progress` that a step keeps or reports it. -/
def Reading.outcome (p : Params) (r : Reading) : Except Condition Listing :=
  match r.allWords p with
  | .error c => .error c
  | .ok ws =>
    match r.allSlots .const with
    | .error c => .error c
    | .ok cs =>
      match r.allSlots .global with
      | .error c => .error c
      | .ok gs => .ok ⟨r.header, ws, cs, gs⟩

/-- Before the first entry, what is left is the whole of `ReadContainer`. -/
theorem Reading.outcome_begun {p : Params} {img : Image} {h : Header}
    (hh : readHeader p img = .ok h) :
    Reading.outcome p ⟨img, h, [], [], []⟩ = readContainer p img := by
  have hid {α : Type} (x : Except Condition (List α)) : x.map ([] ++ ·) = x := by cases x <;> rfl
  simp only [readContainer, hh, Reading.outcome, Reading.allWords, Reading.allSlots,
    Reading.entries_const, Reading.entries_global, hid]
  rfl

theorem Reading.allWords_done {p : Params} {r : Reading}
    (h : r.header.n.toNat ≤ r.words.length) : r.allWords p = .ok r.words := by
  simp only [Reading.allWords, Nat.sub_eq_zero_of_le h, readWords, Except.map, List.append_nil]

theorem Reading.allSlots_done {r : Reading} {pool : Pool}
    (h : r.header.slots pool ≤ (r.entries pool).length) :
    r.allSlots pool = .ok (r.entries pool) := by
  simp only [Reading.allSlots, Nat.sub_eq_zero_of_le h, readSlots, Except.map, List.append_nil]

/-- Entering the next word leaves the word entries a reading ends with as they are. -/
theorem Reading.allWords_addWord {p : Params} {r : Reading} {b0 b1 b2 b3 : Byte}
    (hleft : r.words.length < r.header.n.toNat)
    (hbytes : r.image.readBytes (wordOffset r.words.length) 4 = [b0, b1, b2, b3]) :
    (r.addWord (iwd p r.header.ver (wordOfBytes p.wordOrder b0 b1 b2 b3))).allWords p =
      r.allWords p := by
  have hlen : ¬r.image.len < wordOffset r.words.length + 4 := by
    have := Image.length_readBytes r.image (wordOffset r.words.length) 4
    rw [hbytes] at this
    simp only [List.length_cons, List.length_nil] at this
    omega
  have hnext : wordOffset (r.words.length + 1) = wordOffset r.words.length + 4 := rfl
  obtain ⟨left, hn⟩ := Nat.exists_eq_add_of_lt hleft
  have hmore : r.header.n.toNat - r.words.length = left + 1 := by omega
  have hrest : r.header.n.toNat - (r.words.length + 1) = left := by omega
  simp only [Reading.allWords, hmore, readWords, if_neg hlen, hbytes, Reading.addWord_image,
    Reading.addWord_header, Reading.addWord_words, List.length_append, List.length_singleton, hrest,
    hnext]
  cases readWords p r.image r.header.ver left (r.words.length + 1)
    (wordOffset r.words.length + 4) <;> simp [Except.map]

/-- Entering the next slot of a pool leaves the entries of the pool a reading ends with as they are. -/
theorem Reading.allSlots_addSlot {r : Reading} {pool : Pool} {sl : Slot}
    (hleft : (r.entries pool).length < r.header.slots pool)
    (hbytes : r.image.readBytes (slotOffset r.header pool (r.entries pool).length) 9 =
      slotBytes sl) :
    (r.addSlot pool (svdSlot r.header.ver sl)).allSlots pool = r.allSlots pool := by
  have hnext : slotOffset r.header pool ((r.entries pool).length + 1) =
      slotOffset r.header pool (r.entries pool).length + 9 := by
    cases pool <;> rfl
  obtain ⟨left, hn⟩ := Nat.exists_eq_add_of_lt hleft
  have hmore : r.header.slots pool - (r.entries pool).length = left + 1 := by omega
  have hrest : r.header.slots pool - ((r.entries pool).length + 1) = left := by omega
  simp only [Reading.allSlots, hmore, readSlots, hbytes, svd_slotBytes, Reading.addSlot_image,
    Reading.addSlot_header, Reading.addSlot_entries_same, List.length_append, List.length_singleton,
    hrest, hnext]
  cases readSlots r.image r.header.ver pool left ((r.entries pool).length + 1)
    (slotOffset r.header pool (r.entries pool).length + 9) <;> simp [Except.map]

theorem Reading.slots_of_takesSlot {r : Reading} {pool : Pool} (h : r.takesSlot pool) :
    (r.entries pool).length < r.header.slots pool := by
  cases pool with
  | const => exact h.2
  | global => exact h.2.2

/-- One more entry leaves `ReadContainer`'s outcome as it is. -/
theorem NextEntry.outcome_eq {p : Params} {r r' : Reading} (h : NextEntry p r r') :
    r'.outcome p = r.outcome p := by
  cases h with
  | word b0 b1 b2 b3 hleft hbytes =>
    simp only [Reading.outcome, Reading.allWords_addWord hleft hbytes]
    rfl
  | slot pool sl hturn hbytes =>
    have hpool := Reading.allSlots_addSlot (Reading.slots_of_takesSlot hturn) hbytes
    cases pool <;> simp only [Reading.outcome, hpool] <;> rfl

/-- An image that ends inside the next word ends the reading with `TruncatedStream` (R254). -/
theorem Reading.outcome_of_word_short {p : Params} {r : Reading}
    (hleft : r.words.length < r.header.n.toNat)
    (hshort : r.image.len < wordOffset r.words.length + 4) :
    r.outcome p = .error (.truncatedStream r.words.length
      (r.image.len - wordOffset r.words.length)) := by
  obtain ⟨left, hn⟩ := Nat.exists_eq_add_of_lt hleft
  have hmore : r.header.n.toNat - r.words.length = left + 1 := by omega
  simp only [Reading.outcome, Reading.allWords, hmore, readWords, if_pos hshort, Except.map]

/-- An image that ends inside the next slot ends the reading with `MalformedSlot` (R255). -/
theorem Reading.outcome_of_slot_short {p : Params} {r : Reading} {pool : Pool}
    (hturn : r.takesSlot pool) {bytes : List Byte} (hlen : bytes.length ≠ 9)
    (hbytes : r.image.readBytes (slotOffset r.header pool (r.entries pool).length) 9 = bytes) :
    r.outcome p =
      .error (.malformedSlot bytes.length (some (pool, (r.entries pool).length))) := by
  obtain ⟨left, hn⟩ := Nat.exists_eq_add_of_lt (Reading.slots_of_takesSlot hturn)
  have hmore : r.header.slots pool - (r.entries pool).length = left + 1 := by omega
  have hpool : r.allSlots pool =
      .error (.malformedSlot bytes.length (some (pool, (r.entries pool).length))) := by
    simp only [Reading.allSlots, hmore, readSlots, hbytes, svd_of_length_ne _ hlen, Except.map]
  cases pool with
  | const =>
    obtain ⟨hwords, _⟩ := hturn
    simp only [Reading.outcome, Reading.allWords_done hwords, hpool]
  | global =>
    obtain ⟨hwords, hconsts, _⟩ := hturn
    have hdone : r.allSlots .const = .ok (r.entries .const) := Reading.allSlots_done hconsts
    simp only [Reading.outcome, Reading.allWords_done hwords, hdone, hpool]

/-- A reading with no section left ends with its listing (R48). -/
theorem Reading.outcome_of_done {p : Params} {r : Reading}
    (hwords : r.header.n.toNat ≤ r.words.length) (hconsts : r.header.k.toNat ≤ r.consts.length)
    (hglobals : r.header.m.toNat ≤ r.globals.length) : r.outcome p = .ok r.listing := by
  have hc : r.allSlots .const = .ok (r.entries .const) := Reading.allSlots_done hconsts
  have hg : r.allSlots .global = .ok (r.entries .global) := Reading.allSlots_done hglobals
  simp only [Reading.outcome, Reading.allWords_done hwords, hc, hg]
  rfl

/-! ### A step of a reading -/

/-- The status a finished reading leaves (R250). -/
def statusOf : Except Condition Listing → Option Condition
  | .ok _ => none
  | .error c => some c

/-- What an operation that ended with an outcome has left: the outcome in the status and in one more
report, no reading, and the rest of the requests (R258, R259). -/
structure ReadEnds (s t : State) (res : Except Condition Listing) : Prop where
  params : t.params = s.params
  requests : t.requests = s.requests
  reading : t.reading = none
  status : t.status = statusOf res
  reports : t.reports = s.reports ++ [reportOf res]

/-- What a step of a reading does: it goes on with one more entry, or ends with its outcome. -/
inductive ReadingProgress (s : State) (r : Reading) (t : State) : Prop
  | goesOn (r' : Reading) (hentry : NextEntry s.params r r') (hparams : t.params = s.params)
      (hrequests : t.requests = s.requests) (hreading : t.reading = some r')
      (hreports : t.reports = s.reports)
  | ends (h : ReadEnds s t (r.outcome s.params))

theorem readEnds_raise {s t : State} {c : Condition} {res : Except Condition Listing}
    (h : res = .error c) (hparams : t.params = s.params) (hrequests : t.requests = s.requests)
    (hreports : t.reports = s.reports) : ReadEnds s (t.raise c) res := by
  subst h
  exact ⟨hparams, hrequests, rfl, rfl, by rw [State.raise_reports, hreports]; rfl⟩

theorem readWordStep_progress {r : Reading} (s : State)
    (hleft : r.words.length < r.header.n.toNat) :
    ∃ t, readWordStep r s = .next t ∧ ReadingProgress s r t := by
  rcases readWordStep_cases r s with ⟨b0, b1, b2, b3, o, _, hbytes, hrun, h⟩ | ⟨hshort, h⟩
  · have hout : iwd s.params r.header.ver (wordOfBytes s.params.wordOrder b0 b1 b2 b3) = o := by
      rw [runWord_eq] at hrun
      exact congrArg State.iwdOut (Host.Outcome.next.inj hrun)
    subst hout
    exact ⟨_, h, .goesOn _ (.word b0 b1 b2 b3 hleft hbytes) rfl rfl
      (State.recordWord_reading_eq ..) rfl⟩
  · exact ⟨_, h, .ends (readEnds_raise (Reading.outcome_of_word_short hleft hshort) rfl rfl rfl)⟩

theorem readSlotStep_progress {r : Reading} {pool : Pool} (s : State) (hturn : r.takesSlot pool) :
    ReadingProgress s r (readSlotStep pool r s) := by
  rcases readSlotStep_cases pool r s with ⟨sl, hbytes, h⟩ | ⟨hshort, bytes, hbytes, hlen, h⟩
  · rw [h]
    exact .goesOn _ (.slot pool sl hturn hbytes) (by simp) (by simp)
      (State.recordSlot_reading_eq ..) (by simp)
  · rw [h]
    exact .ends (readEnds_raise (Reading.outcome_of_slot_short hturn (by omega) hbytes) rfl rfl rfl)

/-- A step of a reading answers, and goes on or ends with what `ReadContainer` gives from there. -/
theorem readingStep_progress (r : Reading) (s : State) :
    ∃ t, readingStep r s = .next t ∧ ReadingProgress s r t := by
  rcases readingStep_cases r s with ⟨hw, h⟩ | ⟨hw, hc, h⟩ | ⟨hw, hc, hg, h⟩ | ⟨hw, hc, hg, h⟩
  · rw [h]
    exact readWordStep_progress s hw
  · exact ⟨_, h, readSlotStep_progress s ⟨hw, hc⟩⟩
  · exact ⟨_, h, readSlotStep_progress s ⟨hw, hc, hg⟩⟩
  · have hout : r.outcome s.params = .ok r.listing := Reading.outcome_of_done hw hc hg
    refine ⟨_, h, .ends ?_⟩
    rw [hout]
    exact ⟨rfl, rfl, rfl, rfl, rfl⟩

/-! ### A reading run to its end -/

theorem run_succ {s t : State} (h : step s = .next t) (n : Nat) :
    Host.Core.run core (n + 1) s = Host.Core.run core n t := by
  have hstep : core.step s = .next t := h
  simp only [Host.Core.run, hstep]

theorem ReadEnds.of_eq {s t u : State} {res : Except Condition Listing} (h : ReadEnds t u res)
    (hparams : t.params = s.params) (hrequests : t.requests = s.requests)
    (hreports : t.reports = s.reports) : ReadEnds s u res :=
  ⟨h.params.trans hparams, h.requests.trans hrequests, h.reading, h.status, hreports ▸ h.reports⟩

/-- A reading under way ends with its outcome, one step after its last entry at the latest. -/
theorem run_reading {s : State} {r : Reading} (hr : s.reading = some r) :
    ∃ n t, n ≤ r.left + 1 ∧ Host.Core.run core n s = .next t ∧
      ReadEnds s t (r.outcome s.params) := by
  obtain ⟨t, hstep, hprog⟩ := readingStep_progress r s
  have hnext := (step_reading s r hr).trans hstep
  cases hprog with
  | ends hends => exact ⟨1, t, by omega, run_succ hnext 0, hends⟩
  | goesOn r' hentry hparams hrequests hreading hreports =>
    have hleft := hentry.left_eq
    obtain ⟨n, u, hn, hrun, hends⟩ := run_reading hreading
    rw [hparams, hentry.outcome_eq] at hends
    exact ⟨n + 1, u, by omega, (run_succ hnext n).trans hrun,
      hends.of_eq hparams hrequests hreports⟩
termination_by r.left
decreasing_by omega

/-- A read request is served and its reading run to the end: `ReadContainer`'s outcome, one step after
the header and one after the last entry. -/
theorem run_readImage {s : State} {img : Image} {qs : List Request} (hr : s.reading = none)
    (hq : s.requests = .readImage img :: qs) :
    ∃ n t, n ≤ 2 + img.header.n.toNat + img.header.k.toNat + img.header.m.toNat ∧
      Host.Core.run core n s = .next t ∧
      ReadEnds { s with requests := qs } t (readContainer s.params img) := by
  have hstep := step_serve s _ qs hr hq
  cases hh : readHeader s.params img with
  | error c =>
    have hout : readContainer s.params img = .error c := by simp only [readContainer, hh]
    have hnext : step s = .next (({ s with requests := qs } : State).raise c) := by
      simp only [hstep, serve, hh]
    exact ⟨1, _, by omega, run_succ hnext 0, readEnds_raise hout rfl rfl rfl⟩
  | ok h =>
    obtain ⟨_, rfl⟩ := readHeader_ok hh
    have hnext : step s =
        .next (({ s with requests := qs } : State).startReading img img.header) := by
      simp only [hstep, serve, hh]
    obtain ⟨n, t, hn, hrun, hends⟩ :=
      run_reading (State.startReading_reading { s with requests := qs } img img.header)
    rw [State.startReading_params, Reading.outcome_begun hh] at hends
    refine ⟨n + 1, t, ?_, (run_succ hnext n).trans hrun, hends.of_eq rfl rfl rfl⟩
    simp only [Reading.left, List.length_nil] at hn
    omega

/-- Settles O30: the steps of a reading keep `ReadContainer`'s outcome, and the last reports it. -/
theorem readerRunsReadContainer : Obligations.ReaderRunsReadContainer := by
  intro s img qs hr hq
  obtain ⟨n, t, hn, hrun, hends⟩ := run_readImage hr hq
  refine ⟨n, t, hn, hrun, hends.reading, hends.requests, hends.params, hends.reports, ?_⟩
  rw [hends.status]
  cases readContainer s.params img <;> rfl

/-! ### A step of the machine -/

/-- What serving a request does to the reading, the requests and the reports: a reading begins, one
report is made, or a cancel drops the requests (R48, R258, R260). -/
inductive ServeProgress (q : Request) (s t : State) : Prop
  | begins (img : Image) (hq : q = .readImage img)
      (hheader : readHeader s.params img = .ok img.header) (ht : t = s.startReading img img.header)
  | reports (o : Report) (hwf : o.imageWf = true) (hreading : t.reading = none)
      (hrequests : t.requests = s.requests) (hreports : t.reports = s.reports ++ [o])
  | cancels (ht : t = { s with requests := [] })

theorem serve_progress {q : Request} {s t : State} (h : serve q s = .next t) :
    ServeProgress q s t := by
  rcases serve_cases q s with
    ⟨_, _, _, _, hs⟩ | ⟨img, hq, hheader, hs⟩ | ⟨_, _, _, _, _, _, _, _, _, hs⟩ | ⟨_, _, _, _, _, hs⟩ |
    ⟨_, _, _, _, hs⟩ | ⟨_, _, _, hs⟩ | ⟨_, _, _, _, hs⟩ | ⟨_, _, _, _, _, _, hs⟩ |
    ⟨_, _, _, _, _, hs⟩ | ⟨_, _, _, _, hs⟩ | ⟨_, _, _, _, _, hs⟩ | ⟨_, _, _, _, hs⟩ | ⟨_, hs⟩
  all_goals cases hs.symm.trans h
  · exact .reports _ rfl rfl rfl rfl
  · exact .begins img hq hheader rfl
  · exact .reports (.image _) (Image.wf_ofBytes _) rfl rfl rfl
  · exact .reports _ rfl rfl rfl rfl
  · exact .reports _ rfl rfl rfl rfl
  · exact .reports _ rfl rfl rfl rfl
  · exact .reports _ rfl rfl rfl rfl
  · exact .reports _ rfl rfl rfl rfl
  · exact .cancels rfl

/-- What a step that answers does: the reading goes on or ends, nothing, or a request is served. -/
inductive StepProgress (s t : State) : Prop
  | reads (r : Reading) (hr : s.reading = some r) (h : ReadingProgress s r t)
  | idles (hr : s.reading = none) (ht : t = s)
  | serves (q : Request) (qs : List Request) (hr : s.reading = none) (hq : s.requests = q :: qs)
      (h : ServeProgress q { s with requests := qs } t)

theorem step_progress {s t : State} (h : step s = .next t) : StepProgress s t := by
  cases hr : s.reading with
  | some r =>
    obtain ⟨u, hstep, hprog⟩ := readingStep_progress r s
    have heq : Host.Outcome.next u = .next t :=
      hstep.symm.trans ((step_reading s r hr).symm.trans h)
    cases heq
    exact .reads r hr hprog
  | none =>
    cases hq : s.requests with
    | nil =>
      cases (step_idle s hr hq).symm.trans h
      exact .idles hr rfl
    | cons q qs => exact .serves q qs hr hq (serve_progress ((step_serve s q qs hr hq).symm.trans h))

/-- Settles O51: a reading under way goes on by one entry, which keeps image and header. -/
theorem readingNeverWritesItsImage : Obligations.ReadingNeverWritesItsImage := by
  intro s t r r' hr hstep hr'
  cases step_progress hstep with
  | idles hnone => simp [hnone] at hr
  | serves _ _ hnone => simp [hnone] at hr
  | reads r₀ hr₀ hprog =>
    cases hr₀.symm.trans hr
    cases hprog with
    | ends hends => simp [hends.reading] at hr'
    | goesOn r₁ hentry _ hrequests hreading hreports =>
      cases hreading.symm.trans hr'
      have himage := hentry.image_eq
      exact ⟨himage, hentry.header_eq, fun a => by rw [himage], hreports, hrequests⟩

/-! ### The invariants -/

theorem imageWf_reportOf (res : Except Condition Listing) : (reportOf res).imageWf = true := by
  cases res <;> rfl

/-- Settles O44: a step takes its reading's image from a request or keeps it, and a written image is
the image of a byte string. -/
theorem stepKeepsImagesCanonical : Obligations.StepKeepsImagesCanonical := by
  rintro s t ⟨hrequests, hreading, hreports⟩ hstep
  have hreports' {o : Report} (ho : o.imageWf = true) : ∀ o' ∈ s.reports ++ [o], o'.imageWf = true := by
    simp only [List.mem_append, List.mem_singleton]
    rintro o' (h | rfl)
    · exact hreports o' h
    · exact ho
  cases step_progress hstep with
  | idles _ ht => exact ht ▸ ⟨hrequests, hreading, hreports⟩
  | reads r hr hprog =>
    cases hprog with
    | goesOn r' hentry _ hq hr' ho =>
      refine ⟨hq ▸ hrequests, fun r'' h => ?_, ho ▸ hreports⟩
      cases hr'.symm.trans h
      exact hentry.image_eq ▸ hreading r hr
    | ends hends =>
      exact ⟨hends.requests ▸ hrequests, by simp [hends.reading],
        hends.reports ▸ hreports' (imageWf_reportOf _)⟩
  | serves q qs hr hq hprog =>
    rw [hq, List.forall_mem_cons] at hrequests
    obtain ⟨hfirst, hrest⟩ := hrequests
    cases hprog with
    | begins img himg _ ht =>
      subst himg ht
      refine ⟨hrest, fun r h => ?_, hreports⟩
      cases h
      exact hfirst
    | reports o hwf hnone hqs ho => exact ⟨hqs ▸ hrest, by simp [hnone], ho ▸ hreports' hwf⟩
    | cancels ht => exact ht ▸ ⟨by simp, hreading, hreports⟩

/-- Settles O45: reset holds no image. -/
theorem resetImagesCanonical : Obligations.ResetImagesCanonical :=
  ⟨List.forall_mem_nil _, fun _ h => absurd h (Option.some_ne_none _).symm, List.forall_mem_nil _⟩

/-- One more entry keeps the sections in order: a section grows only after those before it are done and
before those after it have begun. -/
theorem NextEntry.inOrder {p : Params} {r r' : Reading} (h : NextEntry p r r')
    (hr : ReadingInOrder r) : ReadingInOrder r' := by
  obtain ⟨hn, hk, hm, hconsts, hglobals⟩ := hr
  cases h with
  | word b0 b1 b2 b3 hleft hbytes =>
    refine ⟨?_, hk, hm, fun h => ?_, fun h => ?_⟩
    · simpa using hleft
    · exact absurd (hconsts h) hleft.ne
    · exact absurd (hglobals h).1 hleft.ne
  | slot pool sl hturn hbytes =>
    cases pool with
    | const =>
      obtain ⟨hwords, hleft⟩ := hturn
      refine ⟨hn, ?_, hm, fun _ => hn.antisymm hwords, fun h => ?_⟩
      · simpa [Reading.addSlot] using hleft
      · exact absurd (hglobals h).2 hleft.ne
    | global =>
      obtain ⟨hwords, hdone, hleft⟩ := hturn
      refine ⟨hn, hk, ?_, hconsts, fun _ => ⟨hn.antisymm hwords, hk.antisymm hdone⟩⟩
      simpa [Reading.addSlot] using hleft

/-- An element of a list with one more at its end is one of the list or the last. -/
theorem getElem?_concat_cases {α : Type} {l : List α} {x e : α} {i : Nat}
    (h : (l ++ [x])[i]? = some e) : l[i]? = some e ∨ i = l.length ∧ e = x := by
  rw [List.getElem?_append] at h
  split at h
  · exact .inl h
  · rw [List.getElem?_singleton] at h
    split at h
    · exact .inr ⟨by omega, (Option.some.inj h).symm⟩
    · cases h

/-- One more entry is what IWD or SVD gives for the bytes at its place, and the others stay. -/
theorem NextEntry.faithful {p : Params} {r r' : Reading} (h : NextEntry p r r')
    (hr : ReadingFaithful p r) : ReadingFaithful p r' := by
  obtain ⟨hheader, hwords, hslots⟩ := hr
  cases h with
  | word b0 b1 b2 b3 hleft hbytes =>
    refine ⟨hheader, fun i e he => ?_, fun pool j e he => ?_⟩
    · rcases getElem?_concat_cases he with hold | ⟨rfl, rfl⟩
      · exact hwords i e hold
      · exact ⟨rfl, b0, b1, b2, b3, hbytes, rfl⟩
    · rw [Reading.addWord_entries] at he
      exact hslots pool j e he
  | slot pool sl hturn hbytes =>
    rw [ReadingFaithful]
    simp only [Reading.addSlot_image, Reading.addSlot_header, Reading.addSlot_words]
    refine ⟨hheader, hwords, fun pool' j e he => ?_⟩
    by_cases hpool : pool' = pool
    · subst hpool
      rw [Reading.addSlot_entries_same] at he
      rcases getElem?_concat_cases he with hold | ⟨rfl, rfl⟩
      · exact hslots pool' j e hold
      · exact ⟨rfl, rfl, by rw [hbytes, svd_slotBytes]⟩
    · rw [Reading.addSlot_entries_other r _ hpool] at he
      exact hslots pool' j e he

theorem readingInOrder_begun (img : Image) (h : Header) : ReadingInOrder ⟨img, h, [], [], []⟩ :=
  ⟨Nat.zero_le _, Nat.zero_le _, Nat.zero_le _, fun h => absurd rfl h, fun h => absurd rfl h⟩

theorem readingFaithful_begun {p : Params} {img : Image} {h : Header}
    (hh : readHeader p img = .ok h) : ReadingFaithful p ⟨img, h, [], [], []⟩ := by
  refine ⟨hh, fun i e he => ?_, fun pool j e he => ?_⟩
  · cases he
  · cases pool <;> cases he

/-- Settles O49: a reading begins sound, and one more entry keeps it so. -/
theorem stepKeepsReadingSound : Obligations.StepKeepsReadingSound := by
  intro s t hsound hstep r' hr'
  rw [stepKeepsParameters s t hstep]
  cases step_progress hstep with
  | idles hr ht => exact hsound r' (ht ▸ hr')
  | reads r hr hprog =>
    cases hprog with
    | ends hends => simp [hends.reading] at hr'
    | goesOn r₁ hentry _ _ hreading _ =>
      cases hreading.symm.trans hr'
      obtain ⟨horder, hfaithful⟩ := hsound r hr
      exact ⟨hentry.inOrder horder, hentry.faithful hfaithful⟩
  | serves q qs hr hq hprog =>
    cases hprog with
    | begins img _ hheader ht =>
      subst ht
      cases hr'
      exact ⟨readingInOrder_begun img _, readingFaithful_begun hheader⟩
    | reports _ _ hnone => simp [hnone] at hr'
    | cancels ht =>
      subst ht
      exact hsound r' hr'

end Sys2Proof.Machine
end

section
/-! PROOFS. The statements about 20_memory.md, images as byte strings: what the writer lays down (R52),
when `ReadContainer` lists (R50), that bytes after the pools change nothing (R47), and how a word in an
image comes to run (R44, R45). -/

namespace Sys2Proof.Machine

/-! ### The written image -/

/-- A part of a byte string is read back at the length of what lies before it. -/
theorem Image.readBytes_ofBytes_part {bs pre mid post : List Byte} {o n : Nat}
    (h : bs = pre ++ (mid ++ post)) (ho : pre.length = o) (hn : mid.length = n) :
    (Image.ofBytes bs).readBytes o n = mid := by
  rw [Image.readBytes_ofBytes, h, ← ho, ← hn, List.drop_left, List.take_left]

/-- A list around its element `i`. -/
theorem exists_append_of_getElem? {α : Type} {l : List α} {i : Nat} {e : α} (h : l[i]? = some e) :
    ∃ pre post, l = pre ++ e :: post ∧ pre.length = i := by
  obtain ⟨hi, rfl⟩ := List.getElem?_eq_some_iff.mp h
  exact ⟨l.take i, l.drop (i + 1), by simp, by simp; omega⟩

/-- The header bytes `WriteContainer` lays down (R52). -/
def headerPart (p : Params) (ver : Version) (flags : BitVec 16) (n k m : BitVec 32) : List Byte :=
  [p.magic.b0, p.magic.b1, p.magic.b2, p.magic.b3] ++ leBytes 2 ver.toNat ++
    leBytes 2 flags.toNat ++ leBytes 4 n.toNat ++ leBytes 4 k.toNat ++ leBytes 4 m.toNat

/-- A written image is its header bytes, then the content given (R52). -/
theorem writeContainer_eq (p : Params) (ver : Version) (flags : BitVec 16) (n k m : BitVec 32)
    (ws : List Word) (cs gs : List Slot) : writeContainer p ver flags n k m ws cs gs =
      headerPart p ver flags n k m ++ ws.flatMap (wordBytes p.wordOrder) ++ cs.flatMap slotBytes ++
        gs.flatMap slotBytes := rfl

theorem length_headerPart (p : Params) (ver : Version) (flags : BitVec 16) (n k m : BitVec 32) :
    (headerPart p ver flags n k m).length = 20 := rfl

/-- A number read from the bytes it was written as. -/
theorem ofNat_leNat_leBytes {w : Nat} (v : BitVec w) (n : Nat) (h : 256 ^ n = 2 ^ w) :
    BitVec.ofNat w (leNat (leBytes n v.toNat)) = v := by
  rw [leNat_leBytes, h, Nat.mod_eq_of_lt v.isLt, BitVec.ofNat_toNat, BitVec.setWidth_eq]

/-- The header of an image that begins with written header bytes has the fields written (R42, R52). -/
theorem Image.header_of_headerPart (p : Params) (ver : Version) (flags : BitVec 16)
    (n k m : BitVec 32) (rest : List Byte) :
    (Image.ofBytes (headerPart p ver flags n k m ++ rest)).header =
      ⟨p.magic, ver, flags, n, k, m⟩ := by
  have hbyte (b : Byte) : BitVec.ofNat 8 (leNat [b]) = b := by simp [leNat]
  have hmagic : (Image.ofBytes (headerPart p ver flags n k m ++ rest)).magic = p.magic := by
    obtain ⟨b0, b1, b2, b3, hp⟩ : ∃ b0 b1 b2 b3, p.magic = ⟨b0, b1, b2, b3⟩ := ⟨_, _, _, _, rfl⟩
    simp only [Image.magic, Image.le, Image.readBytes_ofBytes, headerPart, hp, Magic.mk.injEq]
    exact ⟨hbyte _, hbyte _, hbyte _, hbyte _⟩
  simp only [Image.header, hmagic, Image.le, Image.readBytes_ofBytes, Header.mk.injEq, true_and]
  exact ⟨ofNat_leNat_leBytes ver 2 rfl, ofNat_leNat_leBytes flags 2 rfl,
    ofNat_leNat_leBytes n 4 rfl, ofNat_leNat_leBytes k 4 rfl, ofNat_leNat_leBytes m 4 rfl⟩

/-- Word `i` of the content lies after the header and `i` words, whatever the counts (R45, R52). -/
theorem readBytes_written_word (p : Params) (ver : Version) (flags : BitVec 16) (n k m : BitVec 32)
    {ws : List Word} (cs gs : List Slot) {i : Nat} {w : Word} (h : ws[i]? = some w) :
    (Image.ofBytes (writeContainer p ver flags n k m ws cs gs)).readBytes (20 + 4 * i) 4 =
      wordBytes p.wordOrder w := by
  obtain ⟨pre, post, rfl, rfl⟩ := exists_append_of_getElem? h
  refine Image.readBytes_ofBytes_part
    (pre := headerPart p ver flags n k m ++ pre.flatMap (wordBytes p.wordOrder))
    (post := post.flatMap (wordBytes p.wordOrder) ++ cs.flatMap slotBytes ++ gs.flatMap slotBytes)
    ?_ ?_ (length_wordBytes _ _)
  · simp only [writeContainer_eq, List.flatMap_append, List.flatMap_cons, List.append_assoc]
  · rw [List.length_append, length_headerPart, length_flatMap_wordBytes]

/-- Constant `j` of the content lies after the words given and `j` slots, whatever the counts (R52). -/
theorem readBytes_written_const (p : Params) (ver : Version) (flags : BitVec 16) (n k m : BitVec 32)
    (ws : List Word) {cs : List Slot} (gs : List Slot) {j : Nat} {c : Slot} (h : cs[j]? = some c) :
    (Image.ofBytes (writeContainer p ver flags n k m ws cs gs)).readBytes
      (20 + 4 * ws.length + 9 * j) 9 = slotBytes c := by
  obtain ⟨pre, post, rfl, rfl⟩ := exists_append_of_getElem? h
  refine Image.readBytes_ofBytes_part
    (pre := headerPart p ver flags n k m ++ ws.flatMap (wordBytes p.wordOrder) ++
      pre.flatMap slotBytes)
    (post := post.flatMap slotBytes ++ gs.flatMap slotBytes) ?_ ?_ (length_slotBytes _)
  · simp only [writeContainer_eq, List.flatMap_append, List.flatMap_cons, List.append_assoc]
  · simp only [List.length_append, length_headerPart, length_flatMap_wordBytes,
      length_flatMap_slotBytes]

/-- Global `j` of the content lies after the words and constants given and `j` slots (R52). -/
theorem readBytes_written_global (p : Params) (ver : Version) (flags : BitVec 16)
    (n k m : BitVec 32) (ws : List Word) (cs : List Slot) {gs : List Slot} {j : Nat} {g : Slot}
    (h : gs[j]? = some g) :
    (Image.ofBytes (writeContainer p ver flags n k m ws cs gs)).readBytes
      (20 + 4 * ws.length + 9 * cs.length + 9 * j) 9 = slotBytes g := by
  obtain ⟨pre, post, rfl, rfl⟩ := exists_append_of_getElem? h
  refine Image.readBytes_ofBytes_part
    (pre := headerPart p ver flags n k m ++ ws.flatMap (wordBytes p.wordOrder) ++
      cs.flatMap slotBytes ++ pre.flatMap slotBytes)
    (post := post.flatMap slotBytes) ?_ ?_ (length_slotBytes _)
  · simp only [writeContainer_eq, List.flatMap_append, List.flatMap_cons, List.append_assoc]
  · simp only [List.length_append, length_headerPart, length_flatMap_wordBytes,
      length_flatMap_slotBytes]

theorem length_writeContainer (p : Params) (ver : Version) (flags : BitVec 16) (n k m : BitVec 32)
    (ws : List Word) (cs gs : List Slot) : (writeContainer p ver flags n k m ws cs gs).length =
      20 + 4 * ws.length + 9 * cs.length + 9 * gs.length := by
  simp only [writeContainer_eq, List.length_append, length_headerPart, length_flatMap_wordBytes,
    length_flatMap_slotBytes]

/-- Settles O33: each part of the written bytes is read back at the length of what lies before it. -/
theorem writerWritesContentWhateverTheCounts :
    Obligations.WriterWritesContentWhateverTheCounts := by
  refine ⟨?_, fun bs => ⟨Image.wf_ofBytes bs, rfl, Image.byteAt_ofBytes bs⟩⟩
  rintro p ver flags n k m ws cs gs _ rfl
  refine ⟨length_writeContainer .., ?_, fun _ _ => readBytes_written_word p ver flags n k m cs gs,
    fun _ _ => readBytes_written_const p ver flags n k m ws gs,
    fun _ _ => readBytes_written_global p ver flags n k m ws cs⟩
  rw [writeContainer_eq, List.append_assoc, List.append_assoc]
  exact Image.header_of_headerPart ..

/-! ### When an image lists -/

/-- What a listing is made of: the header and the outcome of each of the three loops (R48). -/
theorem readContainer_eq_ok_iff (p : Params) (img : Image) (l : Listing) :
    readContainer p img = .ok l ↔ readHeader p img = .ok l.header ∧
      readWords p img l.header.ver l.header.n.toNat 0 20 = .ok l.words ∧
      readSlots img l.header.ver .const l.header.k.toNat 0 (20 + 4 * l.header.n.toNat) =
        .ok l.consts ∧
      readSlots img l.header.ver .global l.header.m.toNat 0
        (20 + 4 * l.header.n.toNat + 9 * l.header.k.toNat) = .ok l.globals := by
  constructor
  · intro h
    rw [readContainer] at h
    split at h
    · cases h
    · split at h
      · cases h
      · split at h
        · cases h
        · split at h
          · cases h
          · cases h
            exact ⟨‹_›, ‹_›, ‹_›, ‹_›⟩
  · rintro ⟨hh, hw, hc, hg⟩
    simp only [readContainer, hh, headerBytes, hw, hc, hg]

/-- The loop over the words lists them only where the image holds them all; then each has an entry
(R50, R254). -/
theorem fits_of_readWords_ok {p : Params} {img : Image} {ver : Version} {left i o : Nat}
    {es : List WordEntry} (ho : o ≤ img.len) (h : readWords p img ver left i o = .ok es) :
    o + 4 * left ≤ img.len ∧ es.length = left := by
  by_cases hfit : o + 4 * left ≤ img.len
  · obtain ⟨es', h', hlen, _⟩ := readWords_ok p img ver left i o hfit
    cases h'.symm.trans h
    exact ⟨hfit, hlen⟩
  · obtain ⟨_, _, _, _, h'⟩ := readWords_short p img ver left i o
      ⟨(img.len - o) / 4, by omega, by omega, by omega⟩
    cases h'.symm.trans h

/-- The loop over the slots lists them only where the image holds them all; then each has an entry
(R50, R255). -/
theorem fits_of_readSlots_ok {img : Image} {ver : Version} {pool : Pool} {left j o : Nat}
    {es : List SlotEntry} (ho : o ≤ img.len) (h : readSlots img ver pool left j o = .ok es) :
    o + 9 * left ≤ img.len ∧ es.length = left := by
  by_cases hfit : o + 9 * left ≤ img.len
  · obtain ⟨es', h', hlen, _⟩ := readSlots_ok img ver pool left j o hfit
    cases h'.symm.trans h
    exact ⟨hfit, hlen⟩
  · obtain ⟨_, _, _, _, h'⟩ := readSlots_short img ver pool left j o
      ⟨(img.len - o) / 9, by omega, by omega, by omega⟩
    cases h'.symm.trans h

/-- The number of bytes a header's counts ask for (R41, R42). -/
def Header.size (h : Header) : Nat := 20 + 4 * h.n.toNat + 9 * h.k.toNat + 9 * h.m.toNat

/-- The sections of a listing have as many entries as its header's counts, and the image holds them. -/
theorem fits_of_readContainer_ok {p : Params} {img : Image} {l : Listing}
    (h : readContainer p img = .ok l) :
    l.header.size ≤ img.len ∧ l.words.length = l.header.n.toNat ∧
      l.consts.length = l.header.k.toNat ∧ l.globals.length = l.header.m.toNat := by
  obtain ⟨hh, hw, hc, hg⟩ := (readContainer_eq_ok_iff p img l).mp h
  obtain ⟨hlen, _⟩ := readHeader_ok hh
  obtain ⟨hn, hwords⟩ := fits_of_readWords_ok hlen hw
  obtain ⟨hk, hconsts⟩ := fits_of_readSlots_ok hn hc
  obtain ⟨hm, hglobals⟩ := fits_of_readSlots_ok hk hg
  exact ⟨hm, hwords, hconsts, hglobals⟩

/-- An image with a header that is as long as its counts say lists, whatever its bytes (R50, R256). -/
theorem readContainer_ok_of_fits {p : Params} {img : Image} {h : Header}
    (hh : readHeader p img = .ok h) (hfit : h.size ≤ img.len) :
    ∃ l, readContainer p img = .ok l := by
  rw [Header.size] at hfit
  obtain ⟨ws, hw, _⟩ := readWords_ok p img h.ver h.n.toNat 0 20 (by omega)
  obtain ⟨cs, hc, _⟩ := readSlots_ok img h.ver .const h.k.toNat 0 (20 + 4 * h.n.toNat) (by omega)
  obtain ⟨gs, hg, _⟩ := readSlots_ok img h.ver .global h.m.toNat 0
    (20 + 4 * h.n.toNat + 9 * h.k.toNat) hfit
  exact ⟨⟨h, ws, cs, gs⟩, (readContainer_eq_ok_iff ..).mpr ⟨hh, hw, hc, hg⟩⟩

/-- Settles O38: the loops end in a condition only where the image is too short for the counts. -/
theorem listingExactlyWhenTheCountsFit : Obligations.ListingExactlyWhenTheCountsFit := by
  intro p img
  refine ⟨⟨?_, ?_⟩, ?_⟩
  · rintro ⟨l, hl⟩
    obtain ⟨hh, _⟩ := (readContainer_eq_ok_iff p img l).mp hl
    obtain ⟨hfit, _⟩ := fits_of_readContainer_ok hl
    exact ⟨l.header, hh, hfit⟩
  · rintro ⟨h, hh, hfit⟩
    exact readContainer_ok_of_fits hh hfit
  · intro l hl
    obtain ⟨hh, _⟩ := (readContainer_eq_ok_iff p img l).mp hl
    obtain ⟨_, heq⟩ := readHeader_ok hh
    obtain ⟨_, hcounts⟩ := fits_of_readContainer_ok hl
    exact ⟨heq, heq ▸ hcounts⟩

/-! ### Bytes after the pools -/

/-- The image holds the other's bytes, and may hold more after them. -/
def Image.Extends (img' img : Image) : Prop :=
  img.len ≤ img'.len ∧ ∀ a, a < img.len → img'.byteAt a = img.byteAt a

theorem Image.extends_ofBytes_append (bs extra : List Byte) :
    (Image.ofBytes (bs ++ extra)).Extends (Image.ofBytes bs) := by
  refine ⟨by simp [Image.ofBytes], fun a ha => ?_⟩
  rw [Image.byteAt_ofBytes, Image.byteAt_ofBytes]
  exact List.getElem?_append_left ha

section Extends

variable {img img' : Image} (hext : img'.Extends img)
include hext

theorem Image.Extends.readBytes_eq {o n : Nat} (h : o + n ≤ img.len) :
    img'.readBytes o n = img.readBytes o n := by
  obtain ⟨_, hbytes⟩ := hext
  exact Image.readBytes_congr _ _ _ _ fun a _ ha => hbytes a (by omega)

theorem Image.Extends.readHeader_eq {p : Params} {h : Header} (hh : readHeader p img = .ok h) :
    readHeader p img' = .ok h := by
  obtain ⟨hlen, rfl⟩ := readHeader_ok hh
  have hlen' : ¬img'.len < headerBytes := by
    obtain ⟨hle, _⟩ := hext
    have : headerBytes = 20 := rfl
    omega
  have hle (o n : Nat) (h : o + n ≤ 20) : img'.le o n = img.le o n := by
    rw [Image.le, hext.readBytes_eq (by omega), Image.le]
  have hmagic : img'.magic = img.magic := by
    simp only [Image.magic, hle 0 1 (by decide), hle 1 1 (by decide), hle 2 1 (by decide),
      hle 3 1 (by decide)]
  have hheader : img'.header = img.header := by
    simp only [Image.header, hmagic, hle 4 2 (by decide), hle 6 2 (by decide), hle 8 4 (by decide),
      hle 12 4 (by decide), hle 16 4 (by decide)]
  have hcut : ¬img.len < headerBytes := Nat.not_lt.mpr hlen
  simp only [readHeader, if_neg hcut] at hh
  simp only [readHeader, if_neg hlen', hmagic, hheader, hh]

theorem Image.Extends.readWords_eq (p : Params) (ver : Version) {left i o : Nat}
    (h : o + 4 * left ≤ img.len) : readWords p img' ver left i o = readWords p img ver left i o := by
  have hle : img.len ≤ img'.len := hext.1
  induction left generalizing i o with
  | zero => rfl
  | succ left ih =>
    rw [readWords, readWords, if_neg (by omega), if_neg (by omega), hext.readBytes_eq (by omega),
      ih (by omega)]
    obtain ⟨b0, b1, b2, b3, hbytes⟩ := readBytes_word img o (by omega)
    simp only [hbytes]

theorem Image.Extends.readSlots_eq (ver : Version) (pool : Pool) {left j o : Nat}
    (h : o + 9 * left ≤ img.len) :
    readSlots img' ver pool left j o = readSlots img ver pool left j o := by
  induction left generalizing j o with
  | zero => rfl
  | succ left ih =>
    rw [readSlots, readSlots, hext.readBytes_eq (by omega), ih (by omega)]

/-- An image that lists gives the same listing with more bytes after it (R47). -/
theorem Image.Extends.readContainer_eq {p : Params} {l : Listing}
    (h : readContainer p img = .ok l) : readContainer p img' = .ok l := by
  obtain ⟨hfit, _⟩ := fits_of_readContainer_ok h
  rw [Header.size] at hfit
  rw [readContainer_eq_ok_iff] at h ⊢
  obtain ⟨hh, hw, hc, hg⟩ := h
  refine ⟨hext.readHeader_eq hh, ?_, ?_, ?_⟩
  · rw [hext.readWords_eq _ _ (by omega), hw]
  · rw [hext.readSlots_eq _ _ (by omega), hc]
  · rw [hext.readSlots_eq _ _ (by omega), hg]

end Extends

/-- Settles O34: a listing takes no byte beyond those its counts ask for. -/
theorem trailingBytesAreIgnored : Obligations.TrailingBytesAreIgnored :=
  fun _ bs extra _ h => (Image.extends_ofBytes_append bs extra).readContainer_eq h

/-! ### How a word comes to run -/

/-- Settles O20: no registry row counts under a version that is not admitted. -/
theorem unadmittedVersionsDecodeUnknown : Obligations.UnadmittedVersionsDecodeUnknown := by
  intro p ver op a b c h
  have hreg : opReg p ver op = none := by simp [opReg, h]
  refine ⟨decodeWord_of_none p ver op a b c hreg, ?_⟩
  simp only [iwd, opField_packBytes, faField_packBytes, fbField_packBytes, fcField_packBytes, hreg]
  rfl

/-- A word is the word of the instruction it decodes to (R70, R86). -/
theorem encode_decodeWord (p : Params) (ver : Version) (w : Word) :
    encode (decodeWord p ver w) = w := by
  rw [decodeWord]
  cases opReg p ver (opField w) with
  | none => exact packBytes_fields w
  | some m => simp only [encode, instrFields_instrOf, packBytes_fields]

/-- Bytes that decode to an instruction and nothing after it are the four bytes of a word (R45). -/
theorem decode_eq_ok_nil {p : Params} {ver : Version} {bytes : List Byte} {i : Instr}
    (h : decode p ver bytes = .ok (i, [])) :
    ∃ w, bytes = wordBytes p.wordOrder w ∧ i = decodeWord p ver w := by
  match bytes, h with
  | b0 :: b1 :: b2 :: b3 :: rest, h =>
    cases h
    exact ⟨_, (wordBytes_wordOfBytes p.wordOrder b0 b1 b2 b3).symm, rfl⟩

/-- A step of a reading at whose next place a word's bytes lie runs that word and enters it (R45,
R48). -/
theorem step_of_word {s : State} {r : Reading} {w : Word} (hr : s.reading = some r)
    (hleft : r.words.length < r.header.n.toNat)
    (hbytes : r.image.readBytes (wordOffset r.words.length) 4 = wordBytes s.params.wordOrder w) :
    step s = .next (((s.driveIwdIn w r.header.ver).driveIwdOut
      (iwd s.params r.header.ver w)).recordWord r) := by
  obtain ⟨b0, b1, b2, b3, hfile, rfl⟩ := wordBytes_eq s.params.wordOrder w
  rw [hfile] at hbytes
  rw [step_reading s r hr, readingStep, if_pos hleft]
  simp only [readWordStep, hbytes, runWord_eq]

/-- Settles O39: the step and `exec` both drive IWD's outputs for the word. -/
theorem stepRunsTheDecodedInstruction : Obligations.StepRunsTheDecodedInstruction := by
  constructor
  · intro s r i hr hleft hdecode
    obtain ⟨w, hbytes, rfl⟩ := decode_eq_ok_nil hdecode
    rw [encode_decodeWord]
    exact ⟨_, exec_decodeWord .., step_of_word hr hleft hbytes⟩
  · intro s iw ver qs hr hq
    refine ⟨_, exec_decodeWord .., ?_⟩
    rw [step_serve s _ qs hr hq]
    simp only [serve, runWord_eq]

/-- A reading a word is placed in has words left to fetch, and is the one under way or new (log 10). -/
theorem State.fetchReading_cases (s : State) :
    s.fetchReading.words.length < s.fetchReading.header.n.toNat ∧
      (s.reading = some s.fetchReading ∨ s.fetchReading.image = ⟨0, []⟩) := by
  rw [State.fetchReading]
  split
  · split
    · exact ⟨‹_›, .inl ‹_›⟩
    · exact ⟨Nat.one_pos, .inr rfl⟩
  · exact ⟨Nat.one_pos, .inr rfl⟩

/-- Settles O40: the bytes placed are read back as the word, which the step runs. -/
theorem placedWordRunsNext : Obligations.PlacedWordRunsNext := by
  intro s w hcanonical hw
  obtain ⟨hleft, hfrom⟩ := s.fetchReading_cases
  have hwf : s.fetchReading.image.wf = true := by
    rcases hfrom with hr | hnew
    · exact hcanonical _ hr
    · rw [hnew]
      exact Image.wf_empty
  have hbytes := Image.readBytes_setBytes s.fetchReading.image
    (wordOffset s.fetchReading.words.length) (wordBytes s.params.wordOrder (BitVec.ofNat 32 w)) hwf
  rw [length_wordBytes] at hbytes
  rw [State.withFetchWord, Nat.mod_eq_of_lt hw]
  exact ⟨_, step_of_word (s.placeWord_reading _) hleft hbytes, rfl, rfl, rfl, rfl⟩

end Sys2Proof.Machine
end

section
/-! PROOFS. The statements about 30_encoding.md: the word codec and its inverse (R70 to R73, R83 to
R88), the signed fields and the pack helpers (R76 to R78), the registry (R82, R91) and the decimal
spellings (R89). -/

namespace Sys2Proof.Machine

/-! ### Decoding what was encoded -/

/-- An instruction is the one its mnemonic and the bytes of its encoding stand for. -/
theorem fieldsDetermine (i : Instr) : Laws.FieldsDetermine.Statement i := by
  cases i
  case jmp op off => exact Laws.FieldsDetermine.jmp op off
  case loadi op rd imm => exact Laws.FieldsDetermine.loadi op rd imm
  all_goals rfl

theorem wellFormed_iff (p : Params) (ver : Version) (i : Instr) :
    i.WellFormed p ver = true ↔ opReg p ver (instrFields i).op = (instrFields i).mn := by
  rw [Instr.WellFormed, beq_iff_eq]

/-- The word of a well-formed instruction decodes to it (R71, R83; R87 for the fallback). -/
theorem decodeWord_encode {p : Params} {ver : Version} {i : Instr}
    (h : i.WellFormed p ver = true) : decodeWord p ver (encode i) = i := by
  have hreg := (wellFormed_iff p ver i).mp h
  have hback := fieldsDetermine i
  rw [Laws.FieldsDetermine.Statement] at hback
  cases hmn : (instrFields i).mn with
  | none =>
    rw [hmn] at hreg hback
    exact (decodeWord_of_none p ver _ _ _ _ hreg).trans hback
  | some m =>
    rw [hmn] at hreg hback
    exact (decodeWord_of_some p ver m _ _ _ _ hreg).trans hback

/-- The bytes of a word in the file order of the parameters decode as the word, whatever follows
them (R45). -/
theorem decode_wordBytes_append (p : Params) (ver : Version) (w : Word) (rest : List Byte) :
    decode p ver (wordBytes p.wordOrder w ++ rest) = .ok (decodeWord p ver w, rest) := by
  obtain ⟨b0, b1, b2, b3, hbytes, rfl⟩ := wordBytes_eq p.wordOrder w
  rw [hbytes]
  rfl

/-- Settles O13: the encoding keeps the mnemonic's byte and every field, and the registry gives the
mnemonic back. -/
theorem decodeOfEncodeIsTheInstruction : Obligations.DecodeOfEncodeIsTheInstruction := by
  intro p ver i h
  refine ⟨decodeWord_encode h, fun rest => ?_⟩
  rw [encodeBytes, decode_wordBytes_append, decodeWord_encode h]

/-! ### Encoding what was decoded -/

/-- Every word decodes to an instruction that is well formed under the registry read (R83, R86). -/
theorem wellFormed_decodeWord (p : Params) (ver : Version) (w : Word) :
    (decodeWord p ver w).WellFormed p ver = true := by
  rw [wellFormed_iff, decodeWord]
  cases hreg : opReg p ver (opField w) with
  | none => exact hreg
  | some m =>
    simp only [instrFields_instrOf]
    exact hreg

/-- Settles O14: the four fields of a word make up the word, and four bytes make a word. -/
theorem encodeOfDecodeIsTheWord : Obligations.EncodeOfDecodeIsTheWord := by
  refine ⟨fun p ver w => ⟨encode_decodeWord p ver w, wellFormed_decodeWord p ver w⟩, ?_⟩
  intro p ver bs
  match bs with
  | [] | [_] | [_, _] | [_, _, _] => exact ⟨fun _ => rfl, fun h => absurd h (by simp)⟩
  | b0 :: b1 :: b2 :: b3 :: rest =>
    refine ⟨fun h => absurd h (by simp), fun _ => ⟨_, rfl, ?_⟩⟩
    rw [encodeBytes, encode_decodeWord, wordBytes_wordOfBytes]
    rfl

/-! ### The word codec -/

/-- `to_unsigned_N` is the remainder modulo `2^N` (R8). -/
theorem natCast_toNat_toUnsigned (n : Nat) (v : Int) :
    ((toUnsigned n v).toNat : Int) = v % 2 ^ n := by
  have hpos : (0 : Int) < 2 ^ n := by positivity
  rw [toUnsigned, BitVec.toNat_ofInt, Int.toNat_of_nonneg]
  · push_cast
    rfl
  · push_cast
    exact Int.emod_nonneg v hpos.ne'

theorem natCast_toNat_low8 (v : Int) : ((low8 v).toNat : Int) = v % 256 :=
  natCast_toNat_toUnsigned 8 v

/-- IWE of an opcode in 0..255 packs the low 8 bits of the four inputs (R72). -/
theorem iwe_of_inRange {op : Int} (a b c : Int) (h0 : 0 ≤ op) (h1 : op < 256) :
    iwe ⟨op, a, b, c⟩ = some (packBytes (low8 op) (low8 a) (low8 b) (low8 c)) :=
  if_pos ⟨h0, h1⟩

/-- IWE of the numbers of four bytes packs the bytes. -/
theorem iwe_of_bytes (op a b c : Byte) :
    iwe ⟨op.toNat, a.toNat, b.toNat, c.toNat⟩ = some (packBytes op a b c) := by
  simp only [iwe_of_byte, low8_toNat]

/-- IWD's raw ports are the word's fields, whatever the registry and the version (R71, R88). -/
theorem iwd_raw (p : Params) (ver : Version) (w : Word) :
    (iwd p ver w).op = opField w ∧ (iwd p ver w).fa = faField w ∧
      (iwd p ver w).fb = fbField w ∧ (iwd p ver w).fc = fcField w := by
  rw [iwd]
  cases opReg p ver (opField w) <;> exact ⟨rfl, rfl, rfl, rfl⟩

/-- Settles O12, from the fields and the number of a packed word. -/
theorem wordPackingRoundTrips : Obligations.WordPackingRoundTrips := by
  refine ⟨?_, fun op a b c h => (iwe_eq_none_iff _).mpr h, fun w => ?_, iwd_raw⟩
  · intro op a b c h0 h1
    have hop : ((low8 op).toNat : Int) = op := by
      rw [natCast_toNat_low8, Int.emod_eq_of_lt h0 h1]
    refine ⟨_, iwe_of_inRange a b c h0 h1, ?_⟩
    simp only [opField_packBytes, faField_packBytes, fbField_packBytes, fcField_packBytes,
      packBytes_toNat, natCast_toNat_low8, hop, Nat.cast_add, Nat.cast_mul, Nat.cast_pow,
      Nat.cast_ofNat, and_self]
  · rw [iwe_of_bytes, packBytes_fields]

/-! ### Signed fields -/

/-- The balanced remainder by an even modulus is the remainder in a window shifted by half. -/
theorem bmod_two_mul (v : Int) {h : Nat} (hpos : 0 < h) :
    v.bmod (2 * h) = (v + h) % (2 * h) - h := by
  have hne : (2 * h : Int) ≠ 0 := by omega
  have hlo := Int.emod_nonneg (v + h) hne
  have hhi := Int.emod_lt_of_pos (v + h) (show (0 : Int) < 2 * h by omega)
  have hcongr : ((v + h) % ((2 * h : Nat) : Int) - h).bmod (2 * h) = v.bmod (2 * h) := by
    rw [Int.emod_sub_bmod, Int.add_sub_cancel]
  push_cast at hcongr
  rw [← hcongr]
  exact Int.bmod_eq_of_le (by push_cast; omega) (by push_cast; omega)

/-- R77 law 2: the signed reading of an integer's low bits wraps. -/
theorem toSigned_toUnsigned {n : Nat} (hn : 0 < n) (v : Int) :
    toSigned (toUnsigned n v) = (v + 2 ^ (n - 1)) % 2 ^ n - 2 ^ (n - 1) := by
  obtain ⟨k, rfl⟩ : ∃ k, n = k + 1 := ⟨n - 1, by omega⟩
  rw [toSigned_eq_toInt, toUnsigned, BitVec.toInt_ofInt, Nat.pow_succ',
    bmod_two_mul v (by positivity), Nat.add_sub_cancel, pow_succ']
  push_cast
  rfl

/-- R77 law 1: in range the signed reading gives the integer back. -/
theorem toSigned_toUnsigned_of_inRange {n : Nat} (hn : 0 < n) {v : Int} (h0 : -2 ^ (n - 1) ≤ v)
    (h1 : v < 2 ^ (n - 1)) : toSigned (toUnsigned n v) = v := by
  have hpow : (2 : Int) ^ n = 2 * 2 ^ (n - 1) := by
    rw [← pow_succ', Nat.sub_add_cancel hn]
  rw [toSigned_toUnsigned hn, Int.emod_eq_of_lt (by omega) (by omega), Int.add_sub_cancel]

/-- R77 law 3: the low bits of a field's signed reading are the field. -/
theorem toUnsigned_toSigned {n : Nat} (u : BitVec n) : toUnsigned n (toSigned u) = u := by
  rw [toSigned_eq_toInt, toUnsigned, BitVec.ofInt_toInt]

/-- Settles O16: the laws hold for every positive width. -/
theorem signedFieldLaws : Obligations.SignedFieldLaws := by
  intro n hwidth
  have hn : 0 < n := by omega
  exact ⟨fun _ => toSigned_toUnsigned_of_inRange hn, toSigned_toUnsigned hn, toUnsigned_toSigned⟩

/-! ### IWD on a packed word -/

/-- IWD on a packed word whose opcode byte the registry names: the row of R81, with `simm` and the
roles by the form (R83). -/
theorem iwd_packBytes_of_some {p : Params} {ver : Version} {m : Mnemonic} {op : Byte}
    (a b c : Byte) (h : opReg p ver op = some m) : iwd p ver (packBytes op a b c) =
      { op := op, fa := a, fb := b, fc := c, known := true, mn := (mnInfo m).id
        form := formCode (mnInfo m).form, cat := catCode (mnInfo m).cat
        ty := tyCode (mnInfo m).ty, ty2 := tyCode (mnInfo m).ty2
        simm := simmOf (mnInfo m).form a b c, roles := rolesOf (mnInfo m).form a b c } := by
  simp only [iwd, opField_packBytes, faField_packBytes, fbField_packBytes, fcField_packBytes, h]

/-- Settles O21: the 89 meanings agree with the dispatch. -/
theorem iwdIsTheInstructionsMeaning : Obligations.IwdIsTheInstructionsMeaning :=
  exec_decodeWord

/-- Settles O22: the raw ports are the word's fields, and the rest reads the registry at the word's
opcode byte only. -/
theorem versionChangesNoRawPort : Obligations.VersionChangesNoRawPort := by
  intro p p' ver ver' w
  obtain ⟨hop, hfa, hfb, hfc⟩ := iwd_raw p ver w
  obtain ⟨hop', hfa', hfb', hfc'⟩ := iwd_raw p' ver' w
  refine ⟨hop.trans hop'.symm, hfa.trans hfa'.symm, hfb.trans hfb'.symm, hfc.trans hfc'.symm, ?_⟩
  intro hreg
  rw [iwd, iwd, hreg]

/-- Settles O23: `simm` and the roles of a form read none of its unused fields (R85). -/
theorem unusedFieldsHaveNoEffect : Obligations.UnusedFieldsHaveNoEffect := by
  intro p ver op a b c b' c' m hreg
  simp only [iwd_packBytes_of_some _ _ _ hreg]
  refine ⟨fun hform => ?_, ?_, fun hform => ?_⟩
  · rw [hform]
    rfl
  · rintro (hform | hform) <;> rw [hform] <;> rfl
  · rw [hform]
    rfl

/-- Settles O11: nothing named, the word decodes to the fallback of R87, whose meaning and spelling
are read off its rule. -/
theorem unknownOpcodeFallsBack : Obligations.UnknownOpcodeFallsBack := by
  intro op a b c
  refine ⟨fun p ver h => decodeWord_of_none p ver op a b c h, fun _ => rfl, ?_⟩
  rw [iwdText_unknown _ rfl]
  simp [unknownText, rolesText, rawText]

/-! ### The pack helpers -/

/-- The word the LOADI helper packs: an opcode byte of LOADI, the register, the two bytes of the
wrapped immediate (R76). -/
theorem iwe_of_loadiFields {p : Params} {ver : Version} {dst v : Int} {f : IweIn}
    (h : loadiFields p ver dst v = some f) : ∃ op, opReg p ver op = some .loadi ∧
      iwe f = some (packBytes op (low8 dst) (bits (toUnsigned 16 v) 8)
        (bits (toUnsigned 16 v) 0)) := by
  obtain ⟨op, hnum, rfl⟩ := Option.map_eq_some_iff.mp h
  refine ⟨op, opReg_of_opNum hnum, ?_⟩
  simp only [iwe_of_byte, low8_toNat]

/-- The word the JMP helper packs: an opcode byte of JMP and the three bytes of the wrapped offset
(R78). -/
theorem iwe_of_jmpFields {p : Params} {ver : Version} {v : Int} {f : IweIn}
    (h : jmpFields p ver v = some f) : ∃ op, opReg p ver op = some .jmp ∧
      iwe f = some (packBytes op (bits (toUnsigned 24 v) 16) (bits (toUnsigned 24 v) 8)
        (bits (toUnsigned 24 v) 0)) := by
  obtain ⟨op, hnum, rfl⟩ := Option.map_eq_some_iff.mp h
  refine ⟨op, opReg_of_opNum hnum, ?_⟩
  simp only [iwe_of_byte, low8_toNat]

/-- A packed LOADI word carries its immediate (R74, R75). -/
theorem decode_loadi {p : Params} {ver : Version} {op : Byte} (rd : Byte) (imm : BitVec 16)
    (h : opReg p ver op = some .loadi) :
    decodeWord p ver (packBytes op rd (bits imm 8) (bits imm 0)) = .loadi op rd imm ∧
      (iwd p ver (packBytes op rd (bits imm 8) (bits imm 0))).simm = sext32 imm := by
  rw [decodeWord_of_some p ver .loadi _ _ _ _ h, iwd_packBytes_of_some _ _ _ h]
  simp only [instrOf, mnInfo, simmOf, Laws.bits_append_16, and_self]

/-- A packed JMP word carries its offset (R74, R75). -/
theorem decode_jmp {p : Params} {ver : Version} {op : Byte} (off : BitVec 24)
    (h : opReg p ver op = some .jmp) :
    decodeWord p ver (packBytes op (bits off 16) (bits off 8) (bits off 0)) = .jmp op off ∧
      (iwd p ver (packBytes op (bits off 16) (bits off 8) (bits off 0))).simm = sext32 off := by
  rw [decodeWord_of_some p ver .jmp _ _ _ _ h, iwd_packBytes_of_some _ _ _ h]
  simp only [instrOf, mnInfo, simmOf, Laws.bits_append_24, and_self]

/-- Settles O17: the helpers' words carry the low bits of the integer; their signed reading wraps. -/
theorem loadiAndJmpPackersWrap : Obligations.LoadiAndJmpPackersWrap := by
  intro p ver dst v
  refine ⟨fun f hf => ?_, fun f hf => ?_, loadiFields_eq_none_iff p ver dst v,
    jmpFields_eq_none_iff p ver v⟩
  · obtain ⟨op, hreg, hiwe⟩ := iwe_of_loadiFields hf
    obtain ⟨hdecode, hsimm⟩ := decode_loadi (low8 dst) (toUnsigned 16 v) hreg
    refine ⟨_, op, hiwe, hdecode, ?_⟩
    rw [hsimm, sext32, toSigned_toUnsigned (by decide)]
    rfl
  · obtain ⟨op, hreg, hiwe⟩ := iwe_of_jmpFields hf
    obtain ⟨hdecode, hsimm⟩ := decode_jmp (toUnsigned 24 v) hreg
    refine ⟨_, op, hiwe, hdecode, ?_⟩
    rw [hsimm, sext32, toSigned_toUnsigned (by decide)]
    rfl

/-! ### The registry and its inverse -/

/-- `OPNUM` gives a byte wherever the registry maps one to the mnemonic (R82). -/
theorem exists_opNum_of_opReg {p : Params} {ver : Version} {m : Mnemonic} {op : Byte}
    (h : opReg p ver op = some m) : ∃ op', opNum p ver m = some op' :=
  Option.ne_none_iff_exists'.mp fun hnone => (opNum_eq_none_iff p ver m).mp hnone op h

/-- Settles O18: what `OPNUM` gives is mapped back, and R82 allows one such byte. -/
theorem opnumInvertsOpreg : Obligations.OpnumInvertsOpreg := by
  intro p ver m
  refine ⟨fun _ => opReg_of_opNum, fun _ => exists_opNum_of_opReg, fun op hadm hver hreg => ?_⟩
  obtain ⟨op', hnum⟩ := exists_opNum_of_opReg hreg
  obtain ⟨-, -, hunique⟩ := hadm ver hver
  rw [hnum, hunique op' op m (opReg_of_opNum hnum) hreg]

/-! ### The test registry -/

/-- The mnemonic with the id of a number, if the number is an id (R81). -/
def mnOfNat (n : Nat) : Option Mnemonic := allMnemonics.find? fun m => (mnInfo m).id.toNat == n

/-- The ids of R81 are 0 to 87, in the order of the mnemonics. -/
theorem ids_allMnemonics : allMnemonics.map (fun m => (mnInfo m).id.toNat) = List.range 88 := by
  decide

theorem id_of_mnOfNat {n : Nat} {m : Mnemonic} (h : mnOfNat n = some m) :
    (mnInfo m).id.toNat = n := by
  simpa using List.find?_some h

/-- Exactly the numbers up to 87 are ids. -/
theorem exists_mnOfNat_iff (n : Nat) : (∃ m, mnOfNat n = some m) ↔ n ≤ 87 := by
  have hmem : n ∈ allMnemonics.map (fun m => (mnInfo m).id.toNat) ↔ n ≤ 87 := by
    rw [ids_allMnemonics, List.mem_range]
    omega
  rw [← hmem, ← Option.isSome_iff_exists, mnOfNat, List.find?_isSome, List.mem_map]
  simp only [beq_iff_eq]

/-- `REG_T` maps a byte to the mnemonic whose id it is (R91). -/
theorem opReg_regT {p : Params} {ver : Version} (hp : p.opreg = regT) (hver : admits p ver = true)
    (op : Byte) : opReg p ver op = mnOfNat op.toNat := by
  have hrow (m : Mnemonic) : rowMatches ver op ⟨none, (mnInfo m).id.setWidth 8, m⟩ =
      ((mnInfo m).id.toNat == op.toNat) := by
    have hwiden : ((mnInfo m).id.setWidth 8).toNat = (mnInfo m).id.toNat :=
      BitVec.toNat_setWidth_of_le (by decide)
    rw [Bool.eq_iff_iff]
    simp [rowMatches, BitVec.toNat_eq, hwiden, -BitVec.toNat_setWidth]
  rw [opReg, if_pos hver, hp, regT, List.find?_map, Option.map_map, mnOfNat]
  simp only [Function.comp_def, hrow, Option.map_id']

/-- `REG_T` meets the constraints of R82 for every version. -/
theorem admissible_of_regT {p : Params} (hp : p.opreg = regT) : Admissible p := by
  intro ver hver
  simp only [opReg_regT hp hver]
  refine ⟨by decide, by decide, fun op op' m h h' => ?_⟩
  exact BitVec.eq_of_toNat_eq ((id_of_mnOfNat h).symm.trans (id_of_mnOfNat h'))

/-- Settles O19: `REG_T` looks a byte up among the ids, which are 0 to 87, each once. -/
theorem testRegistryMeetsTheConstraints : Obligations.TestRegistryMeetsTheConstraints := by
  intro p hp
  refine ⟨fun ver op hver => ?_, fun n => (exists_mnOfNat_iff n).mpr, admissible_of_regT hp⟩
  rw [opReg_regT hp hver]
  split
  · rfl
  · have hnot : ¬∃ m, mnOfNat op.toNat = some m := by rwa [exists_mnOfNat_iff]
    simpa [Option.eq_none_iff_forall_ne_some] using hnot

/-- The host's reading of a table word is the decoding of the word under `REG_T` (R91). -/
theorem decodeTableWord_eq (nbits w : Nat) : decodeTableWord nbits w =
    some (decodeWord resetParams 0 (BitVec.ofNat 32 (w % 2 ^ nbits))) := by
  have h := decode_wordBytes_append resetParams 0 (BitVec.ofNat 32 (w % 2 ^ nbits)) []
  rw [List.append_nil] at h
  simp only [decodeTableWord]
  rw [show WordOrder.little = resetParams.wordOrder from rfl, h]

/-- Settles O15: each reading is a decoding under `REG_T`, which is evaluated. -/
theorem sampleWordsDecode : Obligations.SampleWordsDecode := by
  simp only [Obligations.SampleWordsDecode, decodeTableWord_eq]
  decide

/-! ### Decimal spellings -/

/-- A decimal digit is the character its value stands at, from `0` on. -/
theorem digitChar_toNat {d : Nat} (h : d < 10) : (digitChar d).toNat = 48 + d := by
  decide +revert

/-- The number a string of decimal digits spells when it stands behind the number `v`. -/
def decimalValue (v : Nat) (ds : List Char) : Nat :=
  ds.foldl (fun v ch => 10 * v + (ch.toNat - 48)) v

theorem decimalValue_digit_cons (v : Nat) {d : Nat} (h : d < 10) (ds : List Char) :
    decimalValue v (digitChar d :: ds) = decimalValue (10 * v + d) ds := by
  rw [decimalValue, List.foldl_cons, digitChar_toNat h, Nat.add_sub_cancel_left, ← decimalValue]

/-- The digits laid down before `acc` spell the number, where the fuel covers it. -/
theorem decimalValue_digitsOnto {fuel n : Nat} (acc : List Char) (h : n < 10 ^ fuel) :
    decimalValue 0 (digitsOnto 10 fuel n acc) = decimalValue n acc := by
  induction fuel generalizing n acc with
  | zero => rw [Nat.lt_one_iff.mp h, digitsOnto]
  | succ fuel ih =>
    rw [digitsOnto]
    split
    · rw [decimalValue_digit_cons 0 ‹_›, Nat.mul_zero, Nat.zero_add]
    · rw [ih _ (by rw [Nat.pow_succ] at h; omega),
        decimalValue_digit_cons _ (Nat.mod_lt n (by decide)), Nat.div_add_mod]

/-- Only digits are laid down before `acc`. -/
theorem mem_digitsOnto {fuel n : Nat} {acc : List Char} {ch : Char}
    (h : ch ∈ digitsOnto 10 fuel n acc) : ch ∈ acc ∨ ∃ d, d < 10 ∧ ch = digitChar d := by
  induction fuel generalizing n acc with
  | zero => exact .inl h
  | succ fuel ih =>
    rw [digitsOnto] at h
    split at h
    · exact (List.mem_cons.mp h).symm.imp_right fun heq => ⟨n, ‹_›, heq⟩
    · rcases ih h with hacc | hdigit
      · exact (List.mem_cons.mp hacc).symm.imp_right
          fun heq => ⟨n % 10, Nat.mod_lt n (by decide), heq⟩
      · exact .inr hdigit

/-- The first digit of a number that is not 0 is not 0, where the fuel covers it. -/
theorem head?_digitsOnto {fuel n : Nat} (acc : List Char) (hn : n ≠ 0) (h : n < 10 ^ fuel) :
    ∃ d, d ≠ 0 ∧ d < 10 ∧ (digitsOnto 10 fuel n acc).head? = some (digitChar d) := by
  induction fuel generalizing n acc with
  | zero => exact absurd (Nat.lt_one_iff.mp h) hn
  | succ fuel ih =>
    rw [digitsOnto]
    split
    · exact ⟨n, hn, ‹_›, rfl⟩
    · exact ih _ (by omega) (by rw [Nat.pow_succ] at h; omega)

/-- A number has no more decimal digits than `decimal` allows it: its binary ones. -/
theorem lt_ten_pow_log2 (n : Nat) : n < 10 ^ (n.log2 + 1) :=
  Nat.lt_of_lt_of_le Nat.lt_log2_self (Nat.pow_le_pow_left (by decide) _)

/-- Settles O56, by induction on the digits laid down. -/
theorem decimalSpellingsReadBack : Obligations.DecimalSpellingsReadBack := by
  intro n
  have hfuel := lt_ten_pow_log2 n
  have hhead : n ≠ 0 → ∃ d, d ≠ 0 ∧ d < 10 ∧ (decimal n).head? = some (digitChar d) :=
    fun hn => head?_digitsOnto [] hn hfuel
  refine ⟨?_, fun ch hch => ?_, fun hn => ?_, decimalValue_digitsOnto [] hfuel⟩
  · by_cases hn : n = 0
    · subst hn
      decide
    · obtain ⟨d, -, -, hd⟩ := hhead hn
      intro hnil
      rw [hnil] at hd
      cases hd
  · rcases mem_digitsOnto hch with hnil | ⟨d, hd, rfl⟩
    · cases hnil
    · rw [digitChar_toNat hd]
      omega
  · obtain ⟨d, hd0, hd, hhd⟩ := hhead hn
    rw [hhd]
    intro heq
    have hval := digitChar_toNat hd
    rw [Option.some.inj heq] at hval
    exact hd0 (Nat.left_eq_add.mp hval)

end Sys2Proof.Machine
end

section
/-! PROOFS. The statements about 40_control_flow.md: what a step makes of `JMP_BASE` (R102), and what
HALT, PANIC, JMP, JMPIF and JMPIFZ decode to and change (R100 to R104). -/

namespace Sys2Proof.Machine

/-! ### The jump base in the operations on the state -/

section JumpBase

variable (s : State) (base : JmpBase)

@[simp] theorem State.withJmpBase_iwdOut : (s.withJmpBase base).iwdOut = s.iwdOut := rfl
@[simp] theorem State.withJmpBase_svdOut : (s.withJmpBase base).svdOut = s.svdOut := rfl
@[simp] theorem State.withJmpBase_wordOrder :
    (s.withJmpBase base).params.wordOrder = s.params.wordOrder := rfl

/-- IWD reads the registry and the admitted versions alone (R82, R83). -/
@[simp] theorem iwd_withJmpBase : iwd (s.withJmpBase base).params = iwd s.params := rfl

/-- Reading a header takes the magic and its strictness alone (R43). -/
@[simp] theorem readHeader_withJmpBase :
    readHeader (s.withJmpBase base).params = readHeader s.params := rfl

/-- The LOADI helper takes the registry alone (R76). -/
@[simp] theorem loadiFields_withJmpBase :
    loadiFields (s.withJmpBase base).params = loadiFields s.params := rfl

/-- The JMP helper packs an offset, not a target (R78, R102). -/
@[simp] theorem jmpFields_withJmpBase :
    jmpFields (s.withJmpBase base).params = jmpFields s.params := rfl

@[simp] theorem State.driveIwdIn_withJmpBase (iw : Word) (ver : Version) :
    (s.withJmpBase base).driveIwdIn iw ver = (s.driveIwdIn iw ver).withJmpBase base := rfl
@[simp] theorem State.driveIwdOut_withJmpBase (o : IwdOut) :
    (s.withJmpBase base).driveIwdOut o = (s.driveIwdOut o).withJmpBase base := rfl
@[simp] theorem State.driveSvd_withJmpBase (bytes : List Byte) (ver : Version) :
    (s.withJmpBase base).driveSvd bytes ver = (s.driveSvd bytes ver).withJmpBase base := rfl
@[simp] theorem State.driveIwe_withJmpBase (i : IweIn) (iw : Word) :
    (s.withJmpBase base).driveIwe i iw = (s.driveIwe i iw).withJmpBase base := rfl
@[simp] theorem State.driveSve_withJmpBase (ver : Version) (v : Value) (slot : Slot) :
    (s.withJmpBase base).driveSve ver v slot = (s.driveSve ver v slot).withJmpBase base := rfl
@[simp] theorem State.complete_withJmpBase (r : Report) :
    (s.withJmpBase base).complete r = (s.complete r).withJmpBase base := rfl
@[simp] theorem State.raise_withJmpBase (c : Condition) :
    (s.withJmpBase base).raise c = (s.raise c).withJmpBase base := rfl
@[simp] theorem State.startReading_withJmpBase (img : Image) (h : Header) :
    (s.withJmpBase base).startReading img h = (s.startReading img h).withJmpBase base := rfl
@[simp] theorem State.recordWord_withJmpBase (r : Reading) :
    (s.withJmpBase base).recordWord r = (s.recordWord r).withJmpBase base := rfl
@[simp] theorem State.recordSlot_withJmpBase (r : Reading) (pool : Pool) (o : SvdOut) :
    (s.withJmpBase base).recordSlot r pool o = (s.recordSlot r pool o).withJmpBase base := by
  cases pool <;> rfl

@[simp] theorem mapNext_next (f : State → State) : mapNext f (.next s) = .next (f s) := rfl
@[simp] theorem mapNext_refused (f : State → State) (q : Refusal) :
    mapNext f (.refused q) = .refused q := rfl

/-! ### The jump base in a step of a reading -/

theorem readWordStep_withJmpBase (r : Reading) :
    readWordStep r (s.withJmpBase base) = mapNext (·.withJmpBase base) (readWordStep r s) := by
  rw [readWordStep, readWordStep]
  split <;> simp [runWord_eq]

theorem readSlotStep_withJmpBase (pool : Pool) (r : Reading) :
    readSlotStep pool r (s.withJmpBase base) = (readSlotStep pool r s).withJmpBase base := by
  rcases svd_cases r.header.ver
    (r.image.readBytes (slotOffset r.header pool (r.entries pool).length) 9) with
    ⟨_, hsvd⟩ | ⟨slot, _, hsvd⟩
  · simp [readSlotStep, hsvd]
  · simp [readSlotStep, hsvd]

theorem readingStep_withJmpBase (r : Reading) :
    readingStep r (s.withJmpBase base) = mapNext (·.withJmpBase base) (readingStep r s) := by
  rw [readingStep, readingStep]
  split
  · exact readWordStep_withJmpBase s base r
  · simp only [readSlotStep_withJmpBase, State.complete_withJmpBase]
    split
    · rfl
    · split <;> rfl

/-! ### The jump base in a request -/

theorem packStep_withJmpBase (i : IweIn) :
    packStep i (s.withJmpBase base) = mapNext (·.withJmpBase base) (packStep i s) := by
  rw [packStep, packStep]
  cases iwe i <;> simp

theorem packSlotStep_withJmpBase (ver : Version) (v : Value) :
    packSlotStep ver v (s.withJmpBase base) =
      mapNext (·.withJmpBase base) (packSlotStep ver v s) := by
  rw [packSlotStep, packSlotStep]
  cases sve ver v <;> simp

theorem serve_withJmpBase (q : Request) :
    serve q (s.withJmpBase base) = mapNext (·.withJmpBase base) (serve q s) := by
  cases q with
  | readImage img =>
    simp only [serve, readHeader_withJmpBase]
    cases readHeader s.params img <;> simp
  | writeImage | cancel => rfl
  | decodeWord iw ver => simp [serve, runWord_eq]
  | decodeSlot bytes ver =>
    rcases svd_cases ver bytes with ⟨_, hsvd⟩ | ⟨slot, _, hsvd⟩
    · simp [serve_decodeSlot_of_malformed _ hsvd]
    · simp [serve_decodeSlot_of_decoded _ hsvd]
  | packWord op a b c => exact packStep_withJmpBase s base _
  | packLoadi ver dst v =>
    simp only [serve, loadiFields_withJmpBase]
    cases loadiFields s.params ver dst v with
    | none => rfl
    | some i => exact packStep_withJmpBase s base i
  | packJmp ver v =>
    simp only [serve, jmpFields_withJmpBase]
    cases jmpFields s.params ver v with
    | none => rfl
    | some i => exact packStep_withJmpBase s base i
  | packSlot ver v => exact packSlotStep_withJmpBase s base ver v
  | packHostFloat ver x => exact packSlotStep_withJmpBase s base ver (.float (Config.f32FromHost x))

end JumpBase

/-- Settles O53: no unit and no operation of the front end reads the jump base, so changing it commutes
with whatever the step does. -/
theorem jumpBaseChangesNothing : Obligations.JumpBaseChangesNothing := by
  intro s base
  cases hr : s.reading with
  | some r =>
    rw [step_reading s r hr, step_reading (s.withJmpBase base) r hr]
    exact readingStep_withJmpBase s base r
  | none =>
    cases hq : s.requests with
    | nil =>
      rw [step_idle s hr hq, step_idle (s.withJmpBase base) hr hq]
      rfl
    | cons q qs =>
      rw [step_serve s q qs hr hq, step_serve (s.withJmpBase base) q qs hr hq]
      exact serve_withJmpBase { s with requests := qs } base q

/-! ### The rule of a known mnemonic -/

/-- The outputs of IWD for a known mnemonic and its fields: the row of R81, with `simm` and the roles by
the form (R74, R75). -/
def iwdKnown (m : Mnemonic) (op a b c : Byte) : IwdOut :=
  { op := op, fa := a, fb := b, fc := c, known := true, mn := (mnInfo m).id
    form := formCode (mnInfo m).form, cat := catCode (mnInfo m).cat
    ty := tyCode (mnInfo m).ty, ty2 := tyCode (mnInfo m).ty2
    simm := simmOf (mnInfo m).form a b c, roles := rolesOf (mnInfo m).form a b c }

/-- A mnemonic is found by its id (R81). -/
theorem mnOfId_id (m : Mnemonic) : mnOfId (mnInfo m).id = some m := by
  cases m <;> rfl

theorem iwdText_iwdKnown (m : Mnemonic) (op a b c : Byte) : iwdText (iwdKnown m op a b c) =
    mnName m ++ rolesText (rolesOf (mnInfo m).form a b c) :=
  iwdText_known (iwdKnown m op a b c) m rfl (mnOfId_id m)

/-- A known word decodes to the mnemonic's instruction, which drives the outputs of its row and form,
spelled by the mnemonic's name and the roles (R83, R89). -/
theorem wordMeans_instrOf {m : Mnemonic} {op a b c : Byte} {out : IwdOut} {text : List Char}
    (hout : iwdKnown m op a b c = out)
    (htext : mnName m ++ rolesText (rolesOf (mnInfo m).form a b c) = text) :
    WordMeans m (packBytes op a b c) (instrOf m op a b c) out text := by
  subst hout htext
  refine ⟨fun p ver h => ?_, exec_instrOf m op a b c, iwdText_iwdKnown m op a b c⟩
  rw [opField_packBytes] at h
  exact decodeWord_of_some p ver m op a b c h

/-- A mnemonic of form RAW means what the rule of the form says, with the codes of its row of R81. -/
theorem rawMeaning_of_form {m : Mnemonic} {name : String} (hform : (mnInfo m).form = .raw)
    (hname : mnName m = name.toList) :
    RawMeaning m (instrOf m) (mnInfo m).id (catCode (mnInfo m).cat) (tyCode (mnInfo m).ty)
      (tyCode (mnInfo m).ty2) name := by
  intro op a b c
  apply wordMeans_instrOf
  · rw [iwdKnown, hform]
    rfl
  · rw [hform, hname]
    simp [rolesOf, rolesText, rawText]

/-- A mnemonic of form AOFF8 means what the rule of the form says, with the codes of its row of R81. -/
theorem aoff8Meaning_of_form {m : Mnemonic} {name : String} (hform : (mnInfo m).form = .aoff8)
    (hname : mnName m = name.toList) :
    Aoff8Meaning m (instrOf m) (mnInfo m).id (catCode (mnInfo m).cat) (tyCode (mnInfo m).ty)
      (tyCode (mnInfo m).ty2) name := by
  intro op rt xb off
  apply wordMeans_instrOf
  · rw [iwdKnown, hform, BitVec.ofNat_toNat]
    rfl
  · rw [hform, hname]
    simp [rolesOf, rolesText, regText, commaText]

/-- The signed reading of an `n`-bit field lies in `-2^(n-1)..2^(n-1)-1` (R8). -/
theorem toSigned_bounds {n : Nat} (u : BitVec n) :
    -2 ^ (n - 1) ≤ toSigned u ∧ toSigned u ≤ 2 ^ (n - 1) - 1 := by
  rw [toSigned_eq_toInt]
  exact ⟨BitVec.le_toInt u, BitVec.toInt_le⟩

/-- The sign of `{a, b, c}` is the top bit of `a` (R7, R8). -/
theorem toSigned_append_24 (a b c : Byte) : toSigned (a ++ b ++ c) =
    (if a.msb then ((a ++ b ++ c).toNat : Int) - 2 ^ 24 else ((a ++ b ++ c).toNat : Int)) := by
  have hmsb : (a ++ b ++ c).msb = a.msb := by
    rw [BitVec.msb_append, BitVec.msb_append]
    rfl
  rw [toSigned, hmsb]

/-- JMP carries its three fields as one signed offset, sign-extended on `simm` (R75, R102). -/
theorem jmpMeaning : JmpMeaning := by
  intro op a b c
  obtain ⟨hlo, hhi⟩ := toSigned_bounds (a ++ b ++ c)
  refine ⟨_, toSigned_append_24 a b c, hlo, hhi, ?_⟩
  apply wordMeans_instrOf (m := .jmp)
  · rfl
  · simp [mnInfo, mnName, rolesOf, rolesText]

/-- Settles O1, from the rule of each form and the rows of R81; the byte of HALT is R82's. -/
theorem controlFlowDecodesAsRuled : Obligations.ControlFlowDecodesAsRuled := by
  refine ⟨rawMeaning_of_form rfl rfl, rawMeaning_of_form rfl rfl, jmpMeaning,
    aoff8Meaning_of_form rfl rfl, aoff8Meaning_of_form rfl rfl, ?_⟩
  intro p ver a b c hadm hver
  obtain ⟨hhalt, -, -⟩ := hadm ver hver
  exact decodeWord_of_some p ver .halt 0 a b c hhalt

end Sys2Proof.Machine
end

section
/-! PROOFS. The statement about 41_register_movement.md: what COPY, MOVE, LOADI, LOADC, LOADG and STOREG
decode to and change (R110 to R115). -/

namespace Sys2Proof.Machine

/-- A mnemonic of form AB means what the rule of the form says, with the codes of its row of R81. -/
theorem abMeaning_of_form {m : Mnemonic} {name : String} (hform : (mnInfo m).form = .ab)
    (hname : mnName m = name.toList) :
    AbMeaning m (instrOf m) (mnInfo m).id (catCode (mnInfo m).cat) (tyCode (mnInfo m).ty)
      (tyCode (mnInfo m).ty2) name := by
  intro op rd rs xc
  apply wordMeans_instrOf
  · rw [iwdKnown, hform]
    rfl
  · rw [hform, hname]
    simp [rolesOf, rolesText, regText, commaText]

/-- A mnemonic of form AIDX means what the rule of the form says, with the codes of its row of R81. -/
theorem aidxMeaning_of_form {m : Mnemonic} {name : String} (hform : (mnInfo m).form = .aidx)
    (hname : mnName m = name.toList) :
    AidxMeaning m (instrOf m) (mnInfo m).id (catCode (mnInfo m).cat) (tyCode (mnInfo m).ty)
      (tyCode (mnInfo m).ty2) name := by
  intro op r k xc
  apply wordMeans_instrOf
  · rw [iwdKnown, hform]
    rfl
  · rw [hform, hname]
    simp [rolesOf, rolesText, regText, commaText]

/-- The sign of `{b, c}` is the top bit of `b` (R7, R8). -/
theorem toSigned_append_16 (b c : Byte) : toSigned (b ++ c) =
    (if b.msb then ((b ++ c).toNat : Int) - 2 ^ 16 else ((b ++ c).toNat : Int)) := by
  have hmsb : (b ++ c).msb = b.msb := BitVec.msb_append
  rw [toSigned, hmsb]

/-- LOADI carries its two low fields as one signed immediate, sign-extended on `simm` (R75, R112). -/
theorem loadiMeaning : LoadiMeaning := by
  intro op rd b c
  obtain ⟨hlo, hhi⟩ := toSigned_bounds (b ++ c)
  refine ⟨_, toSigned_append_16 b c, hlo, hhi, ?_⟩
  apply wordMeans_instrOf (m := .loadi)
  · rfl
  · simp [mnInfo, mnName, rolesOf, rolesText, regText, commaText]

/-- Settles O2, from the rule of each form and the rows of R81. -/
theorem movementDecodesAsRuled : Obligations.MovementDecodesAsRuled :=
  ⟨abMeaning_of_form rfl rfl, abMeaning_of_form rfl rfl, loadiMeaning,
    aidxMeaning_of_form rfl rfl, aidxMeaning_of_form rfl rfl, aidxMeaning_of_form rfl rfl⟩

end Sys2Proof.Machine
end

section
/-! PROOFS. The statement about 42_call_stack.md: what CALL, TAILCALL and RET decode to and change
(R120 to R122). -/

namespace Sys2Proof.Machine

/-- Settles O3: the three mnemonics are of form RAW, so each is the rule of that form at its row of R81. -/
theorem callStackDecodesAsRuled : Obligations.CallStackDecodesAsRuled := by
  refine ⟨?call, ?tailcall, ?ret⟩
  case call => exact rawMeaning_of_form (m := .call) rfl rfl
  case tailcall => exact rawMeaning_of_form (m := .tailcall) rfl rfl
  case ret => exact rawMeaning_of_form (m := .ret) rfl rfl

end Sys2Proof.Machine
end

section
/-! PROOFS. The statements about 43_arithmetic.md: what the arithmetic and comparison mnemonics on I64,
U64, F32 and F64 decode to and change (R130 to R177). -/

namespace Sys2Proof.Machine

/-- A mnemonic of form ABC means what the rule of the form says, with the codes of its row of R81. -/
theorem abcMeaning_of_form {m : Mnemonic} {name : String} (hform : (mnInfo m).form = .abc)
    (hname : mnName m = name.toList) :
    AbcMeaning m (instrOf m) (mnInfo m).id (catCode (mnInfo m).cat) (tyCode (mnInfo m).ty)
      (tyCode (mnInfo m).ty2) name := by
  intro op rd rs1 rs2
  apply wordMeans_instrOf
  · rw [iwdKnown, hform]
    rfl
  · rw [hform, hname]
    simp [rolesOf, rolesText, regText, commaText]

/-- A mnemonic of form A means what the rule of the form says, with the codes of its row of R81. -/
theorem unaryMeaning_of_form {m : Mnemonic} {name : String} (hform : (mnInfo m).form = .a)
    (hname : mnName m = name.toList) :
    UnaryMeaning m (instrOf m) (mnInfo m).id (catCode (mnInfo m).cat) (tyCode (mnInfo m).ty)
      (tyCode (mnInfo m).ty2) name := by
  intro op r xb xc
  apply wordMeans_instrOf
  · rw [iwdKnown, hform]
    rfl
  · rw [hform, hname]
    simp [rolesOf, rolesText, regText]

/-- Settles O4: NEG is of form A and the other mnemonics on I64 of form ABC, so each is the rule of its
form at its row of R81. -/
theorem signedArithmeticDecodesAsRuled : Obligations.SignedArithmeticDecodesAsRuled := by
  refine ⟨?_, ?_, ?_, ?_, ?_, ?neg, ?_, ?_, ?_, ?_, ?_, ?_⟩
  case neg => exact unaryMeaning_of_form rfl rfl
  all_goals exact abcMeaning_of_form rfl rfl

/-- Settles O5, as O4, at the rows of R81 on U64. -/
theorem unsignedArithmeticDecodesAsRuled : Obligations.UnsignedArithmeticDecodesAsRuled := by
  refine ⟨?_, ?_, ?_, ?_, ?_, ?uneg, ?_, ?_, ?_, ?_, ?_, ?_⟩
  case uneg => exact unaryMeaning_of_form rfl rfl
  all_goals exact abcMeaning_of_form rfl rfl

/-- Settles O6, as O4, at the rows of R81 on F32. -/
theorem floatArithmeticDecodesAsRuled : Obligations.FloatArithmeticDecodesAsRuled := by
  refine ⟨?_, ?_, ?_, ?_, ?_, ?fneg, ?_, ?_, ?_, ?_, ?_, ?_⟩
  case fneg => exact unaryMeaning_of_form rfl rfl
  all_goals exact abcMeaning_of_form rfl rfl

/-- Settles O7, as O4, at the rows of R81 on F64. -/
theorem doubleArithmeticDecodesAsRuled : Obligations.DoubleArithmeticDecodesAsRuled := by
  refine ⟨?_, ?_, ?_, ?_, ?_, ?dneg, ?_, ?_, ?_, ?_, ?_, ?_⟩
  case dneg => exact unaryMeaning_of_form rfl rfl
  all_goals exact abcMeaning_of_form rfl rfl

end Sys2Proof.Machine
end

section
/-! PROOFS. The statements about 44_bitwise.md: what the bitwise and shift mnemonics on I64 and U64 decode
to and change (R180 to R195). -/

namespace Sys2Proof.Machine

/-- Settles O8: the twelve mnemonics of two operands are of form ABC, so each is the rule of that form at
its row of R81. -/
theorem bitwiseBinaryDecodesAsRuled : Obligations.BitwiseBinaryDecodesAsRuled := by
  refine ⟨?and, ?or, ?xor, ?shl, ?shr, ?sar, ?uand, ?uor, ?uxor, ?ushl, ?ushr, ?usar⟩
  all_goals exact abcMeaning_of_form rfl rfl

/-- Settles O9: the four complements are of form A, so each is the rule of that form at its row of R81. -/
theorem bitwiseUnaryDecodesAsRuled : Obligations.BitwiseUnaryDecodesAsRuled := by
  refine ⟨?lnot, ?bnot, ?ulnot, ?ubnot⟩
  all_goals exact unaryMeaning_of_form rfl rfl

end Sys2Proof.Machine
end

section
/-! PROOFS. The statement about 45_conversions.md: what the ten conversions decode to and change
(R200 to R209). -/

namespace Sys2Proof.Machine

/-- Settles O10: the ten conversions are of form RAW, so each is the rule of that form at its row of R81. -/
theorem conversionsDecodeAsRuled : Obligations.ConversionsDecodeAsRuled := by
  refine ⟨?i2d, ?i2f, ?d2i, ?f2i, ?i2u, ?u2i, ?u2d, ?u2f, ?d2u, ?f2u⟩
  all_goals exact rawMeaning_of_form rfl rfl

end Sys2Proof.Machine
end

section
/-! PROOFS. The statements about 46_value_slot.md: what SVD decodes (R210 to R222), what SVE encodes
(R223 to R232), the round trips of the two (R233, R234), and the spelling of a value (R235). -/

namespace Sys2Proof.Machine

/-! ### The tag registry -/

/-- `TAGNUM` is a right inverse of `TAGREG` (R223). -/
@[simp] theorem tagReg_tagNum (ver : Version) (k : Kind) : tagReg ver (tagNum ver k) = some k := by
  cases k <;> rfl

/-- No tag above 7 names a kind (R213). -/
theorem tagReg_of_gt (ver : Version) {tag : Byte} (h : 7 < tag.toNat) : tagReg ver tag = none := by
  rw [tagReg]
  split
  case h_9 => rfl
  all_goals omega

/-- A tag is the tag of a kind or above 7 (R212). -/
theorem tag_cases (ver : Version) (tag : Byte) :
    (∃ k, tag = tagNum ver k) ∨ 7 < tag.toNat := by
  rcases Nat.lt_or_ge 7 tag.toNat with hgt | hle
  · exact .inr hgt
  · refine .inl ?_
    have htag : BitVec.ofNat 8 tag.toNat = tag := by simp
    rw [← htag]
    interval_cases tag.toNat
    exacts [⟨.nul, rfl⟩, ⟨.bool, rfl⟩, ⟨.u64, rfl⟩, ⟨.i64, rfl⟩, ⟨.float, rfl⟩, ⟨.double, rfl⟩,
      ⟨.obj, rfl⟩, ⟨.callable, rfl⟩]

/-! ### The fields of a payload -/

/-- A payload's low half and its pad, one after the other (R218). -/
theorem payload_halves (q : BitVec 64) : q.extractLsb' 32 32 ++ q.extractLsb' 0 32 = q :=
  BitVec.extractLsb'_append_extractLsb'

/-- A payload's three CALLABLE fields, one after the other (R221). -/
theorem payload_callableFields (q : BitVec 64) :
    q.extractLsb' 48 16 ++ q.extractLsb' 32 16 ++ q.extractLsb' 0 32 = q := by
  rw [BitVec.extractLsb'_append_extractLsb'_eq_extractLsb' (by rfl)]
  exact payload_halves q

/-- The CALLABLE of a payload made of three fields is those fields (R221). -/
theorem valueOf_callable_append (tag : Byte) (e : BitVec 32) (a r : BitVec 16) :
    valueOf tag (some .callable) (r ++ a ++ e) = .callable e.toNat a.toNat r.toNat := by
  have hentry : (r ++ a ++ e).extractLsb' 0 32 = e := BitVec.extractLsb'_append_eq_right
  have hargc : (r ++ a ++ e).extractLsb' 32 16 = a :=
    (BitVec.extractLsb'_append_eq_of_le (by decide)).trans BitVec.extractLsb'_append_eq_right
  have hregc : (r ++ a ++ e).extractLsb' 48 16 = r :=
    (BitVec.extractLsb'_append_eq_of_le (by decide)).trans BitVec.extractLsb'_append_eq_left
  rw [valueOf, hentry, hargc, hregc]

/-- The sum of R231 is the concatenation of the fields. -/
theorem callablePayload_eq_append (e : BitVec 32) (a r : BitVec 16) :
    BitVec.ofNat 64 (e.toNat + a.toNat * 2 ^ 32 + r.toNat * 2 ^ 48) = r ++ a ++ e := by
  have ha := a.isLt
  have he := e.isLt
  have hr := r.isLt
  apply BitVec.eq_of_toNat_eq
  rw [BitVec.toNat_append, BitVec.toNat_append, ← Nat.shiftLeft_add_eq_or_of_lt ha,
    ← Nat.shiftLeft_add_eq_or_of_lt he]
  simp only [Nat.shiftLeft_eq, BitVec.toNat_ofNat]
  omega

/-- Byte `i` of a payload in file order (R210). -/
theorem getElem?_leBytes_payload (q : BitVec 64) {i : Nat} (h : i < 8) :
    (leBytes 8 q.toNat)[i]? = some (q.extractLsb' (8 * i) 8) := by
  rw [getElem?_leBytes 8 _ i h]
  congr 1
  apply BitVec.eq_of_toNat_eq
  rw [BitVec.toNat_ofNat, BitVec.extractLsb'_toNat, Nat.shiftRight_eq_div_pow, Nat.pow_mul]

/-! ### Encoding each kind -/

/-- SVE of a U64, with its domain (R226). -/
theorem sve_u64 (ver : Version) (n : Int) : sve ver (.u64 n) =
    if 0 ≤ n ∧ n < 2 ^ 64 then some ⟨2, toUnsigned 64 n⟩ else none := rfl

/-- SVE of an I64, with its domain (R227). -/
theorem sve_i64 (ver : Version) (n : Int) : sve ver (.i64 n) =
    if -2 ^ 63 ≤ n ∧ n < 2 ^ 63 then some ⟨3, toUnsigned 64 n⟩ else none := rfl

/-- SVE of a CALLABLE, with its domain (R231). -/
theorem sve_callable (ver : Version) (e a r : Nat) : sve ver (.callable e a r) =
    if e < 2 ^ 32 ∧ a < 2 ^ 16 ∧ r < 2 ^ 16 then
      some ⟨7, BitVec.ofNat 16 r ++ BitVec.ofNat 16 a ++ BitVec.ofNat 32 e⟩
    else none := by
  rw [sve]
  split
  · rename_i h
    obtain ⟨he, ha, hr⟩ := h
    simp only [← callablePayload_eq_append, BitVec.toNat_ofNat, Nat.mod_eq_of_lt he,
      Nat.mod_eq_of_lt ha, Nat.mod_eq_of_lt hr]
    rfl
  · rfl

/-- Settles O27, from SVE's equation for each kind. -/
theorem valuesEncodeAsRuled : Obligations.ValuesEncodeAsRuled := by
  refine ⟨fun s => ⟨length_slotBytes s, rfl, fun i => getElem?_leBytes_payload s.payload⟩,
    fun ver => ⟨rfl, fun _ => rfl, ?u64, ?u64Refused, ?i64, ?i64Refused, sve_float ver,
      fun _ => rfl, fun _ => rfl, ?callable, ?callableRefused, fun _ _ => rfl⟩⟩
  case u64 =>
    intro n h0 h1
    rw [sve_u64, if_pos (by omega)]
    rfl
  case u64Refused =>
    intro n h
    rw [sve_u64, if_neg (by omega)]
  case i64 =>
    intro n h0 h1
    rw [sve_i64, if_pos (by omega)]
    rfl
  case i64Refused =>
    intro n h
    rw [sve_i64, if_neg (by omega)]
  case callable =>
    intro e a r he ha hr
    rw [sve_callable, if_pos ⟨he, ha, hr⟩]
  case callableRefused =>
    intro e a r h
    rw [sve_callable, if_neg (by omega)]

/-! ### Decoding each kind -/

theorem bvalOf_eq_decide (q : BitVec 64) : bvalOf q = decide (q ≠ 0) :=
  Bool.eq_iff_iff.mpr (bne_iff_ne.trans decide_eq_true_iff.symm)

/-- A BOOL is canonical with payload 0 or 1 (R215). -/
theorem noncanonOf_bool_iff (q : BitVec 64) :
    noncanonOf (some .bool) q = true ↔ q ≠ 0 ∧ q ≠ 1 := by
  simp only [noncanonOf, Bool.and_eq_true, bne_iff_ne]

/-- SVD of a slot whose tag names a kind (R213). -/
theorem svdSlot_tagNum_value (ver : Version) (k : Kind) (q : BitVec 64) :
    (svdSlot ver ⟨tagNum ver k, q⟩).value = valueOf (tagNum ver k) (some k) q := by
  simp [svdSlot]

/-- SVD of a slot whose tag names no kind (R222). -/
theorem svdSlot_of_tagReg_none {ver : Version} {s : Slot} (h : tagReg ver s.tag = none) :
    (svdSlot ver s).value = .unknown s.tag s.payload ∧ (svdSlot ver s).kind = 15 ∧
      (svdSlot ver s).knownTag = false ∧ (svdSlot ver s).noncanon = false := by
  simp [svdSlot, h, valueOf, kindPort, knownTag, noncanonOf]

theorem svdSlot_knownTag_of_le (ver : Version) {s : Slot} (h : s.tag.toNat ≤ 7) :
    (svdSlot ver s).knownTag = true := by
  rcases tag_cases ver s.tag with ⟨k, hk⟩ | hgt
  · simp [svdSlot, hk, knownTag]
  · omega

/-- Each port that is a field of the payload, as a number (R25, R218, R221). -/
theorem svdSlot_fields_toNat (ver : Version) (s : Slot) :
    (svdSlot ver s).f32.toNat = s.payload.toNat % 2 ^ 32 ∧
      (svdSlot ver s).pad.toNat = s.payload.toNat / 2 ^ 32 ∧
      (svdSlot ver s).entry.toNat = s.payload.toNat % 2 ^ 32 ∧
      (svdSlot ver s).argc.toNat = s.payload.toNat / 2 ^ 32 % 2 ^ 16 ∧
      (svdSlot ver s).regc.toNat = s.payload.toNat / 2 ^ 48 := by
  have hq := s.payload.isLt
  simp only [svdSlot, BitVec.extractLsb'_toNat, Nat.shiftRight_eq_div_pow, Nat.pow_zero,
    Nat.div_one, true_and]
  omega

/-- Settles O25: the ports are fields of the payload, and each tag selects the value of its kind. -/
theorem slotKindsDecodeAsRuled : Obligations.SlotKindsDecodeAsRuled := by
  intro ver s
  obtain ⟨hf32, hpad, hentry, hargc, hregc⟩ := svdSlot_fields_toNat ver s
  refine ⟨svdSlot ver s, svd_slotBytes ver s, rfl, rfl, bne_iff_ne, hf32, hpad, hentry, hargc, hregc,
    ?nul, ?bool, ?u64, ?i64, ?float, ?double, ?obj, ?callable, svdSlot_knownTag_of_le ver,
    fun hgt => svdSlot_of_tagReg_none (tagReg_of_gt ver hgt)⟩
  all_goals
    intro htag
    obtain ⟨tag, q⟩ := s
    obtain rfl := htag
  case nul => exact ⟨rfl, rfl, bne_iff_ne⟩
  case bool =>
    exact ⟨congrArg Value.bool (bvalOf_eq_decide q), rfl, noncanonOf_bool_iff q⟩
  case float => exact ⟨rfl, rfl, bne_iff_ne⟩
  all_goals exact ⟨rfl, rfl, rfl⟩

/-- `slot[7:0]` and `slot[71:8]` of a slot's port are its tag and its payload (R25). -/
theorem svdPorts_slotPort (ver : Version) (s : Slot) :
    svdPorts ver (slotPort s) 9 = .decoded (svdSlot ver s) := by
  have htag : (slotPort s).extractLsb' 0 8 = s.tag := BitVec.extractLsb'_append_eq_right
  have hpayload : (slotPort s).extractLsb' 8 64 = s.payload := BitVec.extractLsb'_append_eq_left
  rw [svdPorts, if_pos rfl, htag, hpayload]

/-- Settles O26: what SVD answers by the number of bytes, and the length port alike. -/
theorem slotLengthIsCheckedFirst : Obligations.SlotLengthIsCheckedFirst := by
  refine ⟨fun ver bs => svd_of_length_ne ver, ?nine, fun ver slot len h => if_neg h, ?ports⟩
  case nine =>
    intro ver bs hlen
    rcases svd_cases ver bs with ⟨hne, _⟩ | hslot
    · exact absurd hlen hne
    · exact hslot
  case ports =>
    intro ver s
    rw [svdPorts_slotPort, svd_slotBytes]

/-! ### Encoding what was decoded -/

/-- The payload SVE writes for the value of a payload of a kind (R233). -/
def canonicalPayload (k : Option Kind) (q : BitVec 64) : BitVec 64 :=
  match k with
  | some .nul => 0
  | some .bool => if bvalOf q then 1 else 0
  | some .float => 0#32 ++ q.extractLsb' 0 32
  | some .u64 | some .i64 | some .double | some .obj | some .callable | none => q

/-- Encoding the decoded value keeps the tag and makes the payload canonical (R233). -/
theorem sve_svdSlot_value (ver : Version) (s : Slot) : sve ver (svdSlot ver s).value =
    some ⟨s.tag, canonicalPayload (tagReg ver s.tag) s.payload⟩ := by
  obtain ⟨tag, q⟩ := s
  rcases tag_cases ver tag with ⟨k, rfl⟩ | hgt
  · rw [svdSlot_tagNum_value, tagReg_tagNum]
    cases k
    case u64 =>
      have hq := q.isLt
      rw [valueOf, sve_u64, if_pos (by omega), toUnsigned, BitVec.ofInt_natCast, BitVec.ofNat_toNat,
        BitVec.setWidth_eq]
      rfl
    case i64 =>
      obtain ⟨hlo, hhi⟩ := toSigned_bounds q
      rw [valueOf, sve_i64, if_pos (by omega), toUnsigned_toSigned]
      rfl
    case float => exact sve_float ver _
    case callable =>
      rw [valueOf, sve_callable, if_pos ⟨BitVec.isLt _, BitVec.isLt _, BitVec.isLt _⟩]
      simp only [BitVec.ofNat_toNat, BitVec.setWidth_eq, payload_callableFields]
      rfl
    all_goals rfl
  · have hnone := tagReg_of_gt ver hgt
    obtain ⟨hvalue, -, -, -⟩ := svdSlot_of_tagReg_none (s := ⟨tag, q⟩) hnone
    rw [hvalue, hnone]
    rfl

/-- `noncanon` is 0 exactly for a canonical payload (R233). -/
theorem noncanonOf_eq_false_iff (k : Option Kind) (q : BitVec 64) :
    noncanonOf k q = false ↔ canonicalPayload k q = q := by
  rcases k with _ | k
  · exact iff_of_true rfl rfl
  cases k
  case nul => exact bne_eq_false_iff_eq.trans eq_comm
  case bool =>
    rw [← Bool.not_eq_true, noncanonOf_bool_iff, canonicalPayload, bvalOf_eq_decide]
    by_cases h0 : q = 0#64
    · simp [h0]
    · simpa [h0] using eq_comm
  case float =>
    have hhalves := payload_halves q
    refine bne_eq_false_iff_eq.trans ⟨fun hpad => ?_, fun hq => ?_⟩
    · rwa [hpad] at hhalves
    · rw [← hq]
      exact BitVec.extractLsb'_append_eq_left
  all_goals exact iff_of_true rfl rfl

/-- Settles O29: `noncanon` compares the payload with the canonical one, which SVE writes. -/
theorem noncanonMarksWhatReencodesDifferently :
    Obligations.NoncanonMarksWhatReencodesDifferently := by
  intro ver s
  refine ⟨?_, _, sve_svdSlot_value ver s, rfl⟩
  rw [sve_svdSlot_value, Option.some.injEq, Slot.mk.injEq]
  exact (noncanonOf_eq_false_iff _ _).trans (and_iff_right rfl).symm

/-! ### Decoding what was encoded -/

/-- SVD of the slot of a value gives the value back (R234). -/
theorem svdSlot_value_of_sve {ver : Version} {v : Value} {slot : Slot} (h : sve ver v = some slot)
    (hunknown : ∀ t q, v = .unknown t q → tagReg ver t = none) :
    (svdSlot ver slot).value = v := by
  cases v
  case u64 n =>
    rw [sve_u64, Option.ite_none_right_eq_some] at h
    obtain ⟨⟨hlo, hhi⟩, heq⟩ := h
    obtain rfl := Option.some.inj heq
    refine congrArg Value.u64 ?_
    rw [toUnsigned, BitVec.toNat_ofInt]
    omega
  case i64 n =>
    rw [sve_i64, Option.ite_none_right_eq_some] at h
    obtain ⟨⟨hlo, hhi⟩, heq⟩ := h
    obtain rfl := Option.some.inj heq
    exact congrArg Value.i64 (toSigned_toUnsigned_of_inRange (by decide) hlo hhi)
  case callable e a r =>
    rw [sve_callable, Option.ite_none_right_eq_some] at h
    obtain ⟨⟨he, ha, hr⟩, heq⟩ := h
    obtain rfl := Option.some.inj heq
    refine (valueOf_callable_append 7 _ _ _).trans ?_
    simp only [BitVec.toNat_ofNat, Nat.mod_eq_of_lt he, Nat.mod_eq_of_lt ha, Nat.mod_eq_of_lt hr]
  case float f =>
    rw [sve_float] at h
    obtain rfl := Option.some.inj h
    exact congrArg Value.float BitVec.extractLsb'_append_eq_right
  case unknown t q =>
    obtain rfl := Option.some.inj h
    obtain ⟨hvalue, -, -, -⟩ := svdSlot_of_tagReg_none (s := ⟨t, q⟩) (hunknown t q rfl)
    exact hvalue
  case bool b =>
    obtain rfl := Option.some.inj h
    cases b <;> rfl
  all_goals
    obtain rfl := Option.some.inj h
    rfl

/-- Settles O28: the value comes back, so its slot re-encodes to itself and `noncanon` is 0. -/
theorem typedValuesRoundTrip : Obligations.TypedValuesRoundTrip := by
  intro ver v slot hsve hunknown
  have hvalue := svdSlot_value_of_sve hsve hunknown
  obtain ⟨hcanon, -⟩ := noncanonMarksWhatReencodesDifferently ver slot
  exact ⟨_, svd_slotBytes ver slot, hvalue, hcanon.mpr (hvalue ▸ hsve)⟩

/-! ### The spelling of a value -/

/-- A signed number: its minus where it is negative, and its absolute value (R89). -/
theorem decimalInt_eq (v : Int) :
    decimalInt v = (if v < 0 then ['-'] else []) ++ decimal v.natAbs := by
  rw [decimalInt]
  split <;> rfl

theorem decimalInt_natCast (n : Nat) : decimalInt n = decimal n := by
  rw [decimalInt_eq, if_neg (by omega), Int.natAbs_natCast, List.nil_append]

/-- The patterns of R235 have as many digits as they need. -/
theorem isHex_hexDigits_toNat {w : Nat} (x : BitVec w) {n : Nat} (h : 2 ^ w = 16 ^ n) :
    IsHex n x.toNat (hexDigits n x.toNat) :=
  isHex_hexDigits n _ (h ▸ x.isLt)

/-- The eight payload bytes of an unknown value in file order, each as two digits (R235). -/
def payloadTexts (q : BitVec 64) : List (List Char) :=
  (leBytes 8 q.toNat).map fun b => hexDigits 2 b.toNat

theorem length_payloadTexts (q : BitVec 64) : (payloadTexts q).length = 8 := by
  rw [payloadTexts, List.length_map, length_leBytes]

/-- The payload part of a spelling: each byte's digits with a space in front. -/
theorem byteTexts_leBytes (q : BitVec 64) :
    byteTexts (leBytes 8 q.toNat) = (payloadTexts q).flatMap (' ' :: ·) := by
  rw [payloadTexts, List.flatMap_map, byteTexts]

/-- The digits at place `i` spell payload byte `i`. -/
theorem isHex_payloadTexts {q : BitVec 64} {i : Nat} {ds : List Char}
    (h : (payloadTexts q)[i]? = some ds) : IsHex 2 (q.extractLsb' (8 * i) 8).toNat ds := by
  obtain ⟨hi, -⟩ := List.getElem?_eq_some_iff.mp h
  rw [length_payloadTexts] at hi
  rw [payloadTexts, List.getElem?_map, getElem?_leBytes_payload q hi] at h
  obtain rfl := Option.some.inj h
  exact isHex_hexDigits_toNat _ rfl

/-- Settles O55: each row is `valueText`'s own, with the digits of `decimal` and `hexDigits`. -/
theorem valueSpellings : Obligations.ValueSpellings := by
  refine ⟨rfl, rfl, rfl, ?u64, ?i64, ?float, ?double, ?obj, fun _ _ _ => rfl, ?unknown,
    fun _ _ => rfl, fun _ _ => rfl⟩
  case u64 =>
    intro n
    rw [valueText, decimalInt_natCast]
    rfl
  case i64 =>
    intro n
    rw [valueText, decimalInt_eq, List.append_assoc]
    rfl
  case float => exact fun f => ⟨_, rfl, isHex_hexDigits_toNat f rfl⟩
  case double => exact fun d => ⟨_, rfl, isHex_hexDigits_toNat d rfl⟩
  case obj => exact fun r => ⟨_, rfl, isHex_hexDigits_toNat r rfl⟩
  case unknown =>
    intro t q
    refine ⟨payloadTexts q, length_payloadTexts q, ?_, fun _ _ => isHex_payloadTexts⟩
    rw [valueText, byteTexts_leBytes]
    rfl

end Sys2Proof.Machine
end

section
/-! PROOFS. The statements about 60_exceptions.md: where `ReadContainer` raises each condition (R251 to
R255, in the order of R257), and what a condition ends and leaves (R258, R259, R262). -/

namespace Sys2Proof.Machine

/-! ### From the loops to `ReadContainer` -/

section Conditions

variable {p : Params} {img : Image} {h : Header} {c : Condition}

theorem readContainer_of_readHeader_error (hh : readHeader p img = .error c) :
    readContainer p img = .error c := by
  simp only [readContainer, hh]

theorem readContainer_of_readWords_error (hh : readHeader p img = .ok h)
    (hw : readWords p img h.ver h.n.toNat 0 20 = .error c) : readContainer p img = .error c := by
  simp only [readContainer, hh, headerBytes, hw]

theorem readContainer_of_consts_error {ws : List WordEntry} (hh : readHeader p img = .ok h)
    (hw : readWords p img h.ver h.n.toNat 0 20 = .ok ws)
    (hc : readSlots img h.ver .const h.k.toNat 0 (20 + 4 * h.n.toNat) = .error c) :
    readContainer p img = .error c := by
  simp only [readContainer, hh, headerBytes, hw, hc]

theorem readContainer_of_globals_error {ws : List WordEntry} {cs : List SlotEntry}
    (hh : readHeader p img = .ok h) (hw : readWords p img h.ver h.n.toNat 0 20 = .ok ws)
    (hc : readSlots img h.ver .const h.k.toNat 0 (20 + 4 * h.n.toNat) = .ok cs)
    (hg : readSlots img h.ver .global h.m.toNat 0 (20 + 4 * h.n.toNat + 9 * h.k.toNat) =
      .error c) : readContainer p img = .error c := by
  simp only [readContainer, hh, headerBytes, hw, hc, hg]

/-- A condition `ReadContainer` raises is one the header raises or one a loop raises (R48, R257). -/
theorem readContainer_error_cases (h : readContainer p img = .error c) :
    readHeader p img = .error c ∨
      (∃ ver left i o, readWords p img ver left i o = .error c) ∨
      ∃ ver pool left j o, readSlots img ver pool left j o = .error c := by
  rw [readContainer] at h
  split at h
  case h_1 hh => exact .inl (Except.error.inj h ▸ hh)
  case h_2 =>
    split at h
    case h_1 hw => exact .inr (.inl ⟨_, _, _, _, Except.error.inj h ▸ hw⟩)
    case h_2 =>
      split at h
      case h_1 hc => exact .inr (.inr ⟨_, _, _, _, _, Except.error.inj h ▸ hc⟩)
      case h_2 =>
        split at h
        case h_1 hg => exact .inr (.inr ⟨_, _, _, _, _, Except.error.inj h ▸ hg⟩)
        case h_2 => cases h

end Conditions

/-! ### The condition each loop raises -/

/-- The loop over the words raises no other condition than `TruncatedStream` (R254). -/
theorem eq_truncatedStream_of_readWords_error {p : Params} {img : Image} {ver : Version}
    {left i o : Nat} {c : Condition} (h : readWords p img ver left i o = .error c) :
    ∃ j avail, c = .truncatedStream j avail := by
  induction left generalizing i o with
  | zero => cases h
  | succ left ih =>
    rw [readWords] at h
    split at h
    · exact ⟨_, _, (Except.error.inj h).symm⟩
    · split at h
      · split at h
        case h_1 hrest => exact ih (Except.error.inj h ▸ hrest)
        case h_2 => cases h
      · exact ⟨_, _, (Except.error.inj h).symm⟩

/-- The loop over the slots raises no other condition than `MalformedSlot` (R255). -/
theorem eq_malformedSlot_of_readSlots_error {img : Image} {ver : Version} {pool : Pool}
    {left j o : Nat} {c : Condition} (h : readSlots img ver pool left j o = .error c) :
    ∃ len place, c = .malformedSlot len place := by
  induction left generalizing j o with
  | zero => cases h
  | succ left ih =>
    rw [readSlots] at h
    split at h
    · exact ⟨_, _, (Except.error.inj h).symm⟩
    · split at h
      case h_1 hrest => exact ih (Except.error.inj h ▸ hrest)
      case h_2 => cases h

/-- Only the header raises `BadMagic` (R253). -/
theorem readHeader_of_readContainer_badMagic {p : Params} {img : Image} {g : Magic}
    (h : readContainer p img = .error (.badMagic g)) : readHeader p img = .error (.badMagic g) := by
  rcases readContainer_error_cases h with hh | ⟨_, _, _, _, hw⟩ | ⟨_, _, _, _, _, hs⟩
  · exact hh
  · obtain ⟨_, _, hc⟩ := eq_truncatedStream_of_readWords_error hw
    cases hc
  · obtain ⟨_, _, hc⟩ := eq_malformedSlot_of_readSlots_error hs
    cases hc

theorem readHeader_of_length_lt {p : Params} {img : Image} (h : img.len < 20) :
    readHeader p img = .error (.truncatedHeader img.len) := if_pos h

/-- A whole header is read where the magic is not checked or is `MAGIC` (R43, R253). -/
theorem readHeader_of_magic_ok {p : Params} {img : Image} (hlen : 20 ≤ img.len)
    (hm : p.strictMagic = false ∨ img.magic = p.magic) : readHeader p img = .ok img.header := by
  rcases readHeader_cases p img with ⟨hshort, _⟩ | ⟨_, hs, hne, _⟩ | ⟨_, _, h⟩
  · omega
  · simp [hs, hne] at hm
  · exact h

/-- A header raises `BadMagic` only under `STRICT_MAGIC` (R253). -/
theorem strictMagic_of_badMagic {p : Params} {img : Image} {g : Magic}
    (h : readHeader p img = .error (.badMagic g)) : p.strictMagic = true := by
  rcases readHeader_cases p img with ⟨_, h'⟩ | ⟨_, hs, _, _⟩ | ⟨_, _, h'⟩
  · cases h'.symm.trans h
  · exact hs
  · cases h'.symm.trans h

/-- Settles O35: the length is checked before the magic, and the loops raise neither condition. -/
theorem headerConditions : Obligations.HeaderConditions := by
  intro p img
  refine ⟨fun hlen => ?_, fun hlen hs hm => readContainer_badMagic hs hlen hm, fun g hs h => ?_,
    readHeader_of_magic_ok⟩
  · exact readContainer_of_readHeader_error (readHeader_of_length_lt hlen)
  · have hstrict := strictMagic_of_badMagic (readHeader_of_readContainer_badMagic h)
    cases hs.symm.trans hstrict

/-! ### Where the image is cut short -/

/-- The loop over the words raises `TruncatedStream` at the word the image ends inside (R254). -/
theorem readWords_of_short {p : Params} {img : Image} (ver : Version) {left i o j : Nat}
    (hj : j < left) (hlo : o + 4 * j ≤ img.len) (hhi : img.len < o + 4 * (j + 1)) :
    readWords p img ver left i o =
      .error (.truncatedStream (i + j) (img.len - (o + 4 * j))) := by
  obtain ⟨j', _, hlo', hhi', h⟩ := readWords_short p img ver left i o ⟨j, hj, hlo, hhi⟩
  obtain rfl : j' = j := by omega
  exact h

/-- The loop over the slots raises `MalformedSlot` at the slot the image ends inside (R255). -/
theorem readSlots_of_short {img : Image} (ver : Version) (pool : Pool) {left j o i : Nat}
    (hi : i < left) (hlo : o + 9 * i ≤ img.len) (hhi : img.len < o + 9 * (i + 1)) :
    readSlots img ver pool left j o =
      .error (.malformedSlot (img.len - (o + 9 * i)) (some (pool, j + i))) := by
  obtain ⟨i', _, hlo', hhi', h⟩ := readSlots_short img ver pool left j o ⟨i, hi, hlo, hhi⟩
  obtain rfl : i' = i := by omega
  exact h

/-- Settles O36: the image ends inside one word only, and there the loop stops. -/
theorem streamCutShortRaisesAtFirstWord : Obligations.StreamCutShortRaisesAtFirstWord := by
  intro p img h i hh hi hlo hhi
  have hw := readWords_of_short (p := p) (i := 0) h.ver hi hlo hhi
  rw [Nat.zero_add] at hw
  exact readContainer_of_readWords_error hh hw

/-- Settles O37: the sections before the slot lie inside the image, so their loops end without a
condition. -/
theorem slotCutShortRaisesAtFirstSlot : Obligations.SlotCutShortRaisesAtFirstSlot := by
  intro p img h j hh
  constructor
  · intro hj hlo hhi
    obtain ⟨ws, hw, _⟩ := readWords_ok p img h.ver h.n.toNat 0 20 (by omega)
    have hc := readSlots_of_short (j := 0) h.ver .const hj hlo hhi
    rw [Nat.zero_add] at hc
    exact readContainer_of_consts_error hh hw hc
  · intro hj hlo hhi
    obtain ⟨ws, hw, _⟩ := readWords_ok p img h.ver h.n.toNat 0 20 (by omega)
    obtain ⟨cs, hc, _⟩ := readSlots_ok img h.ver .const h.k.toNat 0 (20 + 4 * h.n.toNat) (by omega)
    have hg := readSlots_of_short (j := 0) h.ver .global hj hlo hhi
    rw [Nat.zero_add] at hg
    exact readContainer_of_globals_error hh hw hc hg

/-! ### What a condition ends -/

/-- A read request whose header raises a condition ends with it (R258). -/
theorem step_of_readHeader_error {s : State} {img : Image} {c : Condition} {qs : List Request}
    (hr : s.reading = none) (hq : s.requests = .readImage img :: qs)
    (hh : readHeader s.params img = .error c) :
    step s = .next (({ s with requests := qs } : State).raise c) := by
  rw [step_serve s _ qs hr hq]
  simp only [serve, hh]

/-- A reading whose image ends inside the next word ends with `TruncatedStream` (R254, R258). -/
theorem step_of_word_short {s : State} {r : Reading} (hr : s.reading = some r)
    (hleft : r.words.length < r.header.n.toNat)
    (hshort : r.image.len < wordOffset r.words.length + 4) :
    step s = .next (s.raise (.truncatedStream r.words.length
      (r.image.len - wordOffset r.words.length))) := by
  rw [step_reading s r hr, readingStep, if_pos hleft]
  rcases readWordStep_cases r s with ⟨_, _, _, _, _, hfit, _⟩ | ⟨_, h⟩
  · omega
  · exact h

/-- A reading whose turn it is to take a slot of a pool takes it (R48). -/
theorem readingStep_of_takesSlot {r : Reading} {pool : Pool} (s : State) (h : r.takesSlot pool) :
    readingStep r s = .next (readSlotStep pool r s) := by
  cases pool with
  | const =>
    obtain ⟨hwords, hleft⟩ := h
    rw [readingStep, if_neg (Nat.not_lt.mpr hwords), if_pos hleft]
  | global =>
    obtain ⟨hwords, hconsts, hleft⟩ := h
    rw [readingStep, if_neg (Nat.not_lt.mpr hwords), if_neg (Nat.not_lt.mpr hconsts), if_pos hleft]

/-- A reading whose image ends inside the next slot presents the bytes there are to SVD and ends with
`MalformedSlot` (R255, R258). -/
theorem step_of_slot_short {s : State} {r : Reading} {pool : Pool} (hr : s.reading = some r)
    (hturn : r.takesSlot pool) {o : Nat} (ho : o = slotOffset r.header pool (r.entries pool).length)
    (hshort : r.image.len < o + 9) :
    svd r.header.ver (r.image.readBytes o 9) = .malformed (r.image.len - o) ∧
      step s = .next ((s.driveSvd (r.image.readBytes o 9) r.header.ver).raise
        (.malformedSlot (r.image.len - o) (some (pool, (r.entries pool).length)))) := by
  subst ho
  have hlen := Image.length_readBytes r.image (slotOffset r.header pool (r.entries pool).length) 9
  rw [Nat.min_eq_right (by omega)] at hlen
  have hsvd := svd_of_length_ne r.header.ver (by omega : (r.image.readBytes
    (slotOffset r.header pool (r.entries pool).length) 9).length ≠ 9)
  rw [hlen] at hsvd
  refine ⟨hsvd, ?_⟩
  rw [step_reading s r hr, readingStep_of_takesSlot s hturn]
  simp only [readSlotStep, State.driveSvd_svdOut, hsvd]

/-- Settles O41: each condition is raised on the state the step found, but for SVD's ports where a
slot was presented. -/
theorem conditionEndsOnlyItsOperation : Obligations.ConditionEndsOnlyItsOperation := by
  refine ⟨fun s img c qs hr hq hh => step_of_readHeader_error hr hq hh,
    fun s r hr hleft hshort => step_of_word_short hr hleft hshort, ?_⟩
  rintro s r pool _ o _ hr hturn rfl ho hshort rfl
  obtain ⟨hsvd, hstep⟩ := step_of_slot_short hr hturn ho hshort
  rw [hstep, ← hsvd]
  rfl

/-! ### Reports -/

/-- Settles O52: a reading that goes on, one that begins, a cancel and an idle step report nothing; every
other step ends its operation with one report. -/
theorem reportsOnlyGrow : Obligations.ReportsOnlyGrow := by
  intro s t hstep
  cases step_progress hstep with
  | idles _ ht => exact .inl (ht ▸ rfl)
  | reads r _ hprog =>
    cases hprog with
    | goesOn _ _ _ _ _ hreports => exact .inl hreports
    | ends hends => exact .inr ⟨_, hends.reports, hends.reading⟩
  | serves q qs _ _ hprog =>
    cases hprog with
    | begins _ _ _ ht => exact .inl (ht ▸ rfl)
    | reports o _ hreading _ hreports => exact .inr ⟨o, hreports, hreading⟩
    | cancels ht => exact .inl (ht ▸ rfl)

/-! ### A batch of images -/

/-- A run that answers goes on from the state it answered. -/
theorem run_add {m : Nat} {s t : State} (h : Host.Core.run core m s = .next t) (n : Nat) :
    Host.Core.run core (m + n) s = Host.Core.run core n t := by
  induction m generalizing s with
  | zero =>
    cases h
    rw [Nat.zero_add]
  | succ m ih =>
    cases hs : core.step s with
    | next u =>
      rw [run_succ hs] at h
      rw [Nat.add_right_comm, run_succ hs]
      exact ih h
    | fault e => simp only [Host.Core.run, hs, reduceCtorEq] at h
    | refused q => simp only [Host.Core.run, hs, reduceCtorEq] at h

/-- Settles O31, by induction on the batch: the reading of one image ends with its own outcome and
leaves the parameters and the other requests, whatever it raises. -/
theorem batchFilesAreIndependent : Obligations.BatchFilesAreIndependent := by
  intro s imgs qs hr hq
  induction imgs generalizing s with
  | nil => exact ⟨0, s, rfl, hr, hq, (List.append_nil _).symm⟩
  | cons img imgs ih =>
    obtain ⟨m, u, _, hfirst, hends⟩ := run_readImage hr hq
    obtain ⟨n, t, hrest, hreading, hrequests, hreports⟩ := ih u hends.reading hends.requests
    refine ⟨m + n, t, (run_add hfirst n).trans hrest, hreading, hrequests, ?_⟩
    rw [hreports, hends.reports, hends.params, List.append_assoc]
    rfl

end Sys2Proof.Machine
end

section
/-! PROOFS. The statements about 70_reset_and_hazards.md: what stands after reset (R270), and what reading
a written image gives, with true counts (R276) and with a wrong one (R275). -/

namespace Sys2Proof.Machine

/-! ### Reset -/

/-- Settles O48: reset leaves every field of an operation empty, and there is no reading to be unsound. -/
theorem resetHasNothingUnderWay : Obligations.ResetHasNothingUnderWay :=
  ⟨rfl, rfl, rfl, rfl, fun _ h => absurd h (Option.some_ne_none _).symm⟩

/-! ### Reading content that lies at its places -/

/-- Bytes read in full lie inside the image. -/
theorem Image.add_le_len_of_length_readBytes {img : Image} {o n : Nat} (hn : 0 < n)
    (h : (img.readBytes o n).length = n) : o + n ≤ img.len := by
  rw [Image.length_readBytes] at h
  omega

/-- The loop over the words lists the words whose bytes lie at their places (R45, R48). -/
theorem readWords_of_bytes {p : Params} {img : Image} (ver : Version) {ws : List Word} {i o : Nat}
    (h : ∀ j w, ws[j]? = some w → img.readBytes (o + 4 * j) 4 = wordBytes p.wordOrder w) :
    readWords p img ver ws.length i o = .ok (ws.mapIdx fun j w => ⟨i + j, iwd p ver w⟩) := by
  induction ws generalizing i o with
  | nil => rfl
  | cons w ws ih =>
    have hfirst : img.readBytes o 4 = wordBytes p.wordOrder w := h 0 w rfl
    have hfit : o + 4 ≤ img.len := Image.add_le_len_of_length_readBytes (by decide) (by
      rw [hfirst, length_wordBytes])
    have hrest := ih (i := i + 1) (o := o + 4) fun j w' hj => by
      rw [show o + 4 + 4 * j = o + 4 * (j + 1) by omega]
      exact h (j + 1) w' hj
    obtain ⟨b0, b1, b2, b3, hfile, hword⟩ := wordBytes_eq p.wordOrder w
    rw [hfile] at hfirst
    simp only [List.length_cons, readWords, if_neg (Nat.not_lt.mpr hfit), hfirst, hword, hrest,
      List.mapIdx_cons, Nat.add_zero, Nat.add_right_comm i 1, Nat.add_assoc]

/-- The loop over the slots lists the slots whose bytes lie at their places (R46, R48). -/
theorem readSlots_of_bytes {img : Image} (ver : Version) (pool : Pool) {cs : List Slot} {j o : Nat}
    (h : ∀ i c, cs[i]? = some c → img.readBytes (o + 9 * i) 9 = slotBytes c) :
    readSlots img ver pool cs.length j o =
      .ok (cs.mapIdx fun i c => ⟨pool, j + i, svdSlot ver c⟩) := by
  induction cs generalizing j o with
  | nil => rfl
  | cons c cs ih =>
    have hfirst : img.readBytes o 9 = slotBytes c := h 0 c rfl
    have hrest := ih (j := j + 1) (o := o + 9) fun i c' hi => by
      rw [show o + 9 + 9 * i = o + 9 * (i + 1) by omega]
      exact h (i + 1) c' hi
    simp only [List.length_cons, readSlots, hfirst, svd_slotBytes, hrest, List.mapIdx_cons,
      Nat.add_zero, Nat.add_right_comm j 1, Nat.add_assoc]

/-- An image whose header counts the content that lies at the places of R45 and R46 lists that
content. -/
theorem readContainer_of_bytes {p : Params} {img : Image} {h : Header} {ws : List Word}
    {cs gs : List Slot} (hh : readHeader p img = .ok h) (hn : h.n.toNat = ws.length)
    (hk : h.k.toNat = cs.length) (hm : h.m.toNat = gs.length)
    (hws : ∀ i w, ws[i]? = some w → img.readBytes (20 + 4 * i) 4 = wordBytes p.wordOrder w)
    (hcs : ∀ j c, cs[j]? = some c →
      img.readBytes (20 + 4 * ws.length + 9 * j) 9 = slotBytes c)
    (hgs : ∀ j g, gs[j]? = some g →
      img.readBytes (20 + 4 * ws.length + 9 * cs.length + 9 * j) 9 = slotBytes g) :
    readContainer p img = .ok ⟨h, ws.mapIdx fun i w => ⟨i, iwd p h.ver w⟩,
      cs.mapIdx fun j c => ⟨.const, j, svdSlot h.ver c⟩,
      gs.mapIdx fun j g => ⟨.global, j, svdSlot h.ver g⟩⟩ := by
  rw [readContainer_eq_ok_iff]
  refine ⟨hh, ?_, ?_, ?_⟩
  · simpa only [hn, Nat.zero_add] using readWords_of_bytes (i := 0) h.ver hws
  · simpa only [hn, hk, Nat.zero_add] using readSlots_of_bytes (j := 0) h.ver .const hcs
  · simpa only [hn, hk, hm, Nat.zero_add] using readSlots_of_bytes (j := 0) h.ver .global hgs

/-! ### Reading a written image -/

/-- The header of a written image is read with the fields written, whether or not the magic is checked
(R43, R52). -/
theorem readHeader_written (p : Params) (ver : Version) (flags : BitVec 16) (n k m : BitVec 32)
    (ws : List Word) (cs gs : List Slot) :
    readHeader p (Image.ofBytes (writeContainer p ver flags n k m ws cs gs)) =
      .ok ⟨p.magic, ver, flags, n, k, m⟩ := by
  obtain ⟨hcontent, _⟩ := writerWritesContentWhateverTheCounts
  obtain ⟨hlen, hheader, _⟩ := hcontent p ver flags n k m ws cs gs _ rfl
  rw [← hheader]
  exact readHeader_of_magic_ok (by omega) (.inr (congrArg Header.magic hheader))

/-- Settles O32: with true counts every word and slot lies where the reader looks for it. -/
theorem writtenImagesReadBack : Obligations.WrittenImagesReadBack := by
  intro p ver flags n k m ws cs gs hn hk hm
  exact readContainer_of_bytes (readHeader_written ..) hn hk hm
    (fun _ _ => readBytes_written_word p ver flags n k m cs gs)
    (fun _ _ => readBytes_written_const p ver flags n k m ws gs)
    (fun _ _ => readBytes_written_global p ver flags n k m ws cs)

/-- Settles O57: the header counts the first two words, and the nine bytes at offset 28 are the third
word and the first five bytes of the constant. -/
theorem desynchronisedImageListsWrongSlots : Obligations.DesynchronisedImageListsWrongSlots := by
  have hcut : (Image.ofBytes (writeContainer resetParams 1 0 2 1 0 [0x07000005, 0x0E000000, 0]
      [⟨3, 42⟩] [])).readBytes 28 9 = slotBytes ⟨0, 0x0000002A03000000⟩ := by
    rw [Image.readBytes_ofBytes]
    rfl
  refine ⟨_, _, readContainer_of_bytes (ws := [0x07000005, 0x0E000000])
    (cs := [⟨0, 0x0000002A03000000⟩]) (gs := []) (readHeader_written ..) rfl rfl rfl ?words ?consts
    (by simp), rfl, rfl, rfl, rfl, rfl, rfl⟩
  case words =>
    intro i w hw
    obtain ⟨hi, _⟩ := List.getElem?_eq_some_iff.mp hw
    exact readBytes_written_word resetParams 1 0 2 1 0 _ _
      ((List.getElem?_append_left (l₂ := [0]) hi).trans hw)
  case consts =>
    intro j c hc
    cases j with
    | zero =>
      cases hc
      exact hcut
    | succ j => cases hc

end Sys2Proof.Machine
end
